-- ==== Sys2Proof/Word.lean ====
section
/-! DEFINITION. The word types: every register and mapper result is a u32 (00_scope R9), every unit of SRC and DST a byte (20_memory R50). -/

namespace Sys2Proof

/-- A u32 of 00_scope R9: arithmetic on it wraps mod 2^32. -/
abbrev Word := BitVec 32

/-- A u8 of 00_scope R9, the unit of SRC and DST. -/
abbrev Byte := BitVec 8

end Sys2Proof
end

