-- ==== Sys2Proof/Config.lean ====
section
/-! DEFINITION. The implementation's parameters (00_scope R7, R8) and the free values the spec leaves open. Every `opaque` constant has no body: nothing in Lean can compute it or prove a value of it. -/

namespace Sys2Proof

/-- The coordinate a mapper term reads (00_scope R14). -/
inductive Coord where
  | x
  | y
  deriving DecidableEq, Repr, Inhabited

/-- The shift d of a mapper term, an integer in -31..31 (00_scope R14): `left n` is d = n, `right n` is d = -n.
`right 0` is a second spelling of d = 0. -/
inductive Shift where
  | left (n : Fin 32)
  | right (n : Fin 32)
  deriving DecidableEq, Repr, Inhabited

/-- A mapper term (s, m, d) of 00_scope R14. -/
structure MapperTerm where
  coord : Coord
  mask  : Word
  shift : Shift
  deriving DecidableEq, Repr, Inhabited

/-- PACK_PERM = (p0, p1, p2, p3), which source byte lands in output byte k (00_scope R8, 43_pixel R180).
That the four differ is checked in WellFormed. -/
structure PackPerm where
  p0 : Fin 4
  p1 : Fin 4
  p2 : Fin 4
  p3 : Fin 4
  deriving DecidableEq, Repr

/-- The open parameters of 00_scope R8: "A model takes each one as an argument". They are fixed for a TDU; State carries
them as a field that no step changes (log entry 3). -/
structure Params where
  /-- UNC_TERMS, the XOR terms of `map_uncompressed`. -/
  uncTerms    : List MapperTerm
  /-- UNC_SIZES, the padded sizes at which the uncompressed map is injective (40_address_mapper R104). -/
  uncSizes    : List (Nat × Nat)
  /-- BC_BASE_SHIFT, 0..31. -/
  bcBaseShift : Fin 32
  /-- BC_BASE_MUL. -/
  bcBaseMul   : Word
  /-- BC_TERMS, the XOR terms of `map_compressed`. -/
  bcTerms     : List MapperTerm
  /-- PACK_PERM. -/
  packPerm    : PackPerm
  deriving DecidableEq, Repr

/-- The two compressed terms the source fixes, (Y, 0x2, 6) and (Y, 0x4, 6) (40_address_mapper R108). -/
def fixedBcTerms : List MapperTerm := [⟨.y, 0x2, .left 6⟩, ⟨.y, 0x4, .left 6⟩]

/-- The default PACK_PERM (0, 2, 1, 3) (00_scope R8, 43_pixel R180; log entry 4). -/
def defaultPackPerm : PackPerm := ⟨0, 2, 1, 3⟩

/-- A size that may stand in UNC_SIZES: W and H multiples of 64, W*H <= 2^32 (00_scope R8). -/
def sizeAllowed (wh : Nat × Nat) : Bool :=
  wh.1 % 64 == 0 && wh.2 % 64 == 0 && decide (wh.1 * wh.2 ≤ 2 ^ 32)

/-! The values of the open parameters, uninterpreted (00_scope R8; 91_not_in_source N1, N2, N3, N22; log entry 3). -/

/-- UNC_TERMS of this TDU. -/
opaque Config.uncTerms : List MapperTerm
/-- The members of UNC_SIZES beside (64, 64). -/
opaque Config.otherUncSizes : List (Nat × Nat)
/-- BC_BASE_SHIFT of this TDU. -/
opaque Config.bcBaseShift : Fin 32
/-- BC_BASE_MUL of this TDU. -/
opaque Config.bcBaseMul : Word
/-- The terms of BC_TERMS beside the two fixed ones. -/
opaque Config.otherBcTerms : List MapperTerm

/-- The parameters of the machine at reset. (64, 64) stands in UNC_SIZES (40_address_mapper R104 b) and each fixed term
exactly once in BC_TERMS (R108); PACK_PERM is the spec's default (log entries 3 and 4). -/
def Config.params : Params where
  uncTerms    := Config.uncTerms
  uncSizes    := (64, 64) :: Config.otherUncSizes.filter sizeAllowed
  bcBaseShift := Config.bcBaseShift
  bcBaseMul   := Config.bcBaseMul
  bcTerms     := fixedBcTerms ++ Config.otherBcTerms.filter (fun t => !fixedBcTerms.contains t)
  packPerm    := defaultPackPerm

/-! Free values, applied to State's counter `draws` (log entries 1, 5). -/

/-- A byte the spec says takes "any value" (20_memory R67, R68; 70_reset R222). -/
opaque Config.freeByte : Nat → Byte
/-- How many host steps go by before the unit performs a command just issued: any finite number (10_state R40 b, d). -/
opaque Config.performDelay : Nat → Nat

/-! Where the platform puts the three spaces: open, and no rule depends on them (20_memory R64; log entry 14). -/

/-- REG_BASE. -/
opaque Config.regBase : Nat
/-- SRC_BASE. -/
opaque Config.srcBase : Nat
/-- DST_BASE. -/
opaque Config.dstBase : Nat

end Sys2Proof
end

