-- ==== Sys2Proof/Machine/Bus.lean ====
section
/-! DEFINITION. The register map of the REG space (10_state R21) and the host's operations (30_encoding R86, 70_reset R232). -/

namespace Sys2Proof.Machine

/-- The named registers of 10_state R21. -/
inductive Reg where
  | id
  | status
  | cmd
  | format
  | width
  | height
  | srcLen
  | dstLen
  | arg0
  | arg1
  | arg2
  | result
  | errInfo0
  | errInfo1
  | blk (k : Fin 4)
  | tex (k : Fin 16)
  deriving DecidableEq, Repr

/-- The access codes of 10_state R21. -/
inductive Access where
  /-- RO: host writes are ignored. -/
  | ro
  /-- RW: every value is legal and reads back as written. -/
  | rw
  /-- WO: reads return 0. -/
  | wo
  deriving DecidableEq, Repr

/-- The access column of 10_state R21. -/
def Reg.access : Reg → Access
  | .id | .status | .result | .errInfo0 | .errInfo1 | .tex _ => .ro
  | .cmd => .wo
  | .format | .width | .height | .srcLen | .dstLen | .arg0 | .arg1 | .arg2 | .blk _ => .rw

/-- The offset column of 10_state R21. -/
def Reg.offset : Reg → Nat
  | .id => 0x000
  | .status => 0x004
  | .cmd => 0x008
  | .format => 0x00C
  | .width => 0x010
  | .height => 0x014
  | .srcLen => 0x018
  | .dstLen => 0x01C
  | .arg0 => 0x020
  | .arg1 => 0x024
  | .arg2 => 0x028
  | .result => 0x02C
  | .errInfo0 => 0x030
  | .errInfo1 => 0x034
  | .blk k => 0x040 + 4 * k.val
  | .tex k => 0x080 + 4 * k.val

/-- Every register of the map. -/
def Reg.all : List Reg :=
  [.id, .status, .cmd, .format, .width, .height, .srcLen, .dstLen, .arg0, .arg1, .arg2, .result, .errInfo0, .errInfo1]
    ++ [0, 1, 2, 3].map Reg.blk ++ [0, 1, 2, 3, 4, 5, 6, 7, 8, 9, 10, 11, 12, 13, 14, 15].map Reg.tex

/-- The register at an offset, none where R21 has "every other offset" (10_state R38). -/
def Reg.ofOffset (off : Nat) : Option Reg := Reg.all.find? (fun r => r.offset == off)

/-- The size of the REG space in bytes (20_memory R50). -/
def regSpaceBytes : Nat := 0x1000

/-- The size of the SRC space and of the DST space in bytes (20_memory R50). -/
def byteSpaceBytes : Nat := 0x100000000

/-- What the host can do to the unit (30_encoding R86; 70_reset R232), one bus access each: SRC and DST move byte by byte
(20_memory R62). A list of these is a host program. -/
inductive HostOp where
  /-- WR: a REG write of `width` bits of `value` at `offset`; only 32 bits at a multiple of 4 is admitted (20_memory R59). -/
  | wr (offset width : Nat) (value : Word)
  /-- RD: a REG read of `width` bits at `offset`. -/
  | rd (offset width : Nat)
  /-- WAIT: reads STATUS until BUSY is 0 (30_encoding R86). -/
  | wait
  /-- One byte of SRCB: a byte written to SRC. -/
  | srcWrite (addr : Nat) (value : Byte)
  /-- One byte of DSTRD: a byte read from DST. -/
  | dstRead (addr : Nat)
  /-- A byte written to DST (70_reset R232, "DST write"). -/
  | dstWrite (addr : Nat) (value : Byte)
  /-- The reset input asserted (70_reset R220). -/
  | reset
  deriving DecidableEq, Repr

/-- What a host read returned: "its value is the line's result" (30_encoding R86; log entry 16). -/
inductive Observation where
  | reg (offset : Nat) (value : Word)
  | dst (addr : Nat) (value : Byte)
  deriving DecidableEq, Repr

/-! The host assembly of 30_encoding R86 to R88, as lists of host operations. -/

/-- `WR <reg>, <value>`. -/
def Asm.wr (r : Reg) (v : Word) : List HostOp := [.wr r.offset 32 v]
/-- `RD <reg>`. -/
def Asm.rd (r : Reg) : List HostOp := [.rd r.offset 32]
/-- `SRCB <offset>, <byte>, ...` writes bytes from the offset upward. -/
def Asm.srcb : Nat → List Byte → List HostOp
  | _, [] => []
  | off, b :: bs => .srcWrite off b :: Asm.srcb (off + 1) bs
/-- `DSTRD <offset>, <n>` reads n bytes. -/
def Asm.dstrd (off : Nat) : Nat → List HostOp
  | 0 => []
  | n + 1 => .dstRead off :: Asm.dstrd (off + 1) n
/-- A command mnemonic: `WR CMD, <command word>` (R87). -/
def Asm.command (w : Word) : List HostOp := Asm.wr .cmd w
/-- A BLK word from four block bytes, the first in bits 7:0: `b0|b1<<8|b2<<16|b3<<24` (R88). -/
def Asm.blkWord (b0 b1 b2 b3 : Byte) : Word := b3 ++ b2 ++ b1 ++ b0
/-- `LDBLK b0, ..., b15` (R88). -/
def Asm.ldblk (b0 b1 b2 b3 b4 b5 b6 b7 b8 b9 b10 b11 b12 b13 b14 b15 : Byte) : List HostOp :=
  Asm.wr (.blk 0) (Asm.blkWord b0 b1 b2 b3) ++ Asm.wr (.blk 1) (Asm.blkWord b4 b5 b6 b7)
    ++ Asm.wr (.blk 2) (Asm.blkWord b8 b9 b10 b11) ++ Asm.wr (.blk 3) (Asm.blkWord b12 b13 b14 b15)
/-- `SETUP f, w, h, sl, dl` (R88). -/
def Asm.setup (f w h sl dl : Word) : List HostOp :=
  Asm.wr .format f ++ Asm.wr .width w ++ Asm.wr .height h ++ Asm.wr .srcLen sl ++ Asm.wr .dstLen dl
/-- `RUN <mnemonic>` (R88). -/
def Asm.run (w : Word) : List HostOp := Asm.command w ++ [.wait] ++ Asm.rd .status
/-- The `.R` forms with one operand (R88): ISSUP.R, PACK.R, BSWAP32.R, BSWAP16.R, EXP565.R. -/
def Asm.unary (w a0 : Word) : List HostOp := Asm.wr .arg0 a0 ++ Asm.command w ++ [.wait] ++ Asm.rd .result
/-- DTEX.R and DTEX.CO.R (R88). -/
def Asm.texel (w i j : Word) : List HostOp :=
  Asm.wr .arg0 i ++ Asm.wr .arg1 j ++ Asm.command w ++ [.wait] ++ Asm.rd .result
/-- MAPU.R and MAPC.R (R88). -/
def Asm.mapper (w x y wd : Word) : List HostOp :=
  Asm.wr .arg0 x ++ Asm.wr .arg1 y ++ Asm.wr .arg2 wd ++ Asm.command w ++ [.wait] ++ Asm.rd .result

end Sys2Proof.Machine
end

