-- ==== Sys2Proof/Machine/State.lean ====
section
/-! DEFINITION. The state of the TDU, its platform's memories and its host (10_state R20, R21, R39, R40; 20_memory R50), as plain data, and the state after reset (10_state R43, 70_reset R221). -/

namespace Sys2Proof.Machine

/-- SRC or DST: the bytes that do not read as an unlisted address reads, addresses strictly rising (log entry 2). -/
abbrev Memory := List Host.Cell

/-- The RW registers of 10_state R21, all 32 bits (R29 to R33, R36). -/
structure RWRegs where
  format : Word
  width  : Word
  height : Word
  srcLen : Word
  dstLen : Word
  arg0   : Word
  arg1   : Word
  arg2   : Word
  /-- BLK0..BLK3. -/
  blk    : Vector Word 4
  deriving DecidableEq, Repr

/-- The latch L (10_state R39): the command word and the RW registers as they were at the issue. -/
structure Latch where
  cmd  : Word
  regs : RWRegs
  deriving DecidableEq, Repr

/-- STATUS.ERRCODE: the error codes of 60_exceptions R191. Codes 6 to 15 are never raised, so they are no values here. -/
inductive ErrCode where
  | none
  | illegalCmd
  | unsupportedFormat
  | bufferTooSmall
  | dstTooSmall
  | srcIndexRange
  deriving DecidableEq, Repr

/-- Why the machine stops with a fault. No command raises one: the unit's own errors are status reports, a next state
(60_exceptions R190). All three are safe: the model stops where the spec has no such byte (log entry 8). -/
inductive Fault where
  /-- Raised by a host REG access (WR, RD) at an offset outside the 4096 bytes of REG (20_memory R50). Safe. -/
  | regOutOfSpace
  /-- Raised by a host SRC write at an offset of 2^32 or more (20_memory R50). Safe. -/
  | srcOutOfSpace
  /-- Raised by a host DST read or write at an offset of 2^32 or more (20_memory R50). Safe. -/
  | dstOutOfSpace
  deriving DecidableEq, Repr

/-- Why the machine gives no meaning. No command of the opcode table ends in one. -/
inductive Refusal where
  /-- Raised by an arm of exec whose instruction has no meaning yet; no arm is such. Safe. -/
  | notModelled (mnemonic : String)
  /-- Raised by a host REG access of a width other than 32 bits: "has no meaning: the model refuses it" (20_memory R59,
  93_implementation_defined U5; log entry 7). Safe. -/
  | regAccessWidth
  /-- Raised by a host REG access at an offset that is not a multiple of 4 (20_memory R59, U5; log entry 7). Safe. -/
  | regAccessMisaligned
  /-- Raised, under the host rule `refuse`, by a host SRC write below L.SRC_LEN while a DECODE is pending: "the model admits
  no such step" (70_reset R232, 93_implementation_defined U4; log entry 6). Safe. -/
  | srcWriteInWindow
  /-- Raised, under the host rule `refuse`, by a host DST write in the output region of a pending DECODE: "the model admits
  no such step" (70_reset R232, 93_implementation_defined U3; log entry 6). Safe. -/
  | dstWriteInWindow
  deriving DecidableEq, Repr

/-- What becomes of a host write that 70_reset R232 forbids inside a DECODE's window. The spec gives it two treatments, and
93_implementation_defined U3 and U4 name both (log entry 6). -/
inductive HostRule where
  /-- The model admits no such step (R232). -/
  | refuse
  /-- The write goes on, and the bytes it disturbs take any value (20_memory R67, R68). -/
  | anyValue
  deriving DecidableEq, Repr

/-- Everything the spec gives the machine (INVENTORY.md, '## State'), then the model's own fields. -/
structure State where
  /-- FORMAT, WIDTH, HEIGHT, SRC_LEN, DST_LEN, ARG0..ARG2, BLK0..BLK3. -/
  regs         : RWRegs
  /-- RESULT (10_state R34). -/
  result       : Word
  /-- ERRINFO0 (10_state R35). -/
  errInfo0     : Word
  /-- ERRINFO1 (10_state R35). -/
  errInfo1     : Word
  /-- TEX0..TEX15 (10_state R37). -/
  tex          : Vector Word 16
  /-- The hidden flag `pending` and STATUS.BUSY, whose values are always equal (10_state R40; log entry 9). -/
  pending      : Bool
  /-- STATUS.DONE (10_state R26). -/
  done         : Bool
  /-- STATUS.ERR (10_state R27). -/
  err          : Bool
  /-- STATUS.ERRCODE (10_state R27). -/
  errCode      : ErrCode
  /-- The latch L (10_state R39). -/
  latch        : Latch
  /-- The SRC memory (20_memory R52). -/
  src          : Memory
  /-- The DST memory (20_memory R53). -/
  dst          : Memory
  /-- The implementation's parameters (00_scope R8), which no step changes (log entry 3). -/
  params       : Params
  /-- MODEL: the host's operations still to come, in program order (20_memory R66; log entries 1, 12). -/
  script       : List HostOp
  /-- MODEL: what the host's reads returned, newest last (log entry 16). -/
  observed     : List Observation
  /-- MODEL: host steps still to come before the unit performs its pending command (10_state R40 d; log entry 1). -/
  delay        : Nat
  /-- MODEL: how many free values have been drawn (log entry 5). -/
  draws        : Nat
  /-- MODEL: the host wrote SRC below L.SRC_LEN since the pending DECODE was issued (20_memory R68; log entry 6). -/
  srcDisturbed : Bool
  /-- MODEL: the DST offsets the host wrote inside the pending DECODE's window (20_memory R67; log entry 6). -/
  dstDisturbed : List Nat
  /-- MODEL: what becomes of a host write that 70_reset R232 forbids; no step changes it (log entry 6). -/
  hostRule     : HostRule
  deriving DecidableEq, Repr

/-- What a step or a meaning answers. -/
abbrev Result := Host.Outcome State Fault Refusal

/-- The RW registers after reset (10_state R43). -/
def RWRegs.reset : RWRegs where
  format := 0
  width  := 0
  height := 0
  srcLen := 0
  dstLen := 0
  arg0   := 0
  arg1   := 0
  arg2   := 0
  blk    := #v[0, 0, 0, 0]

/-- The machine right after a power-on reset: 10_state R43 and 70_reset R221, the memories with nothing listed, the
parameters uninterpreted but for PACK_PERM's default, no host operation waiting, and the writes 70_reset R232 forbids
refused (log entries 2, 3, 4, 6, 12). -/
def State.reset : State where
  regs         := RWRegs.reset
  result       := 0
  errInfo0     := 0
  errInfo1     := 0
  tex          := #v[0, 0, 0, 0, 0, 0, 0, 0, 0, 0, 0, 0, 0, 0, 0, 0]
  pending      := false
  done         := false
  err          := false
  errCode      := .none
  latch        := ⟨0, RWRegs.reset⟩
  src          := []
  dst          := []
  params       := Config.params
  script       := []
  observed     := []
  delay        := 0
  draws        := 0
  srcDisturbed := false
  dstDisturbed := []
  hostRule     := .refuse

end Sys2Proof.Machine
end

