-- ==== Sys2Proof/Machine/Operands.lean ====
section
/-! DEFINITION. Byte lanes, little-endian reads and the operands a command reads from the latch (00_scope R11, 30_encoding R80). -/

namespace Sys2Proof.Machine

/-- `byte(w, k) = w[8k+7:8k]` (00_scope R11). -/
def byteLane (w : Word) (k : Nat) : Byte := w.extractLsb' (8 * k) 8

/-- The four bytes of a word, lane 0 first (20_memory R55). -/
def wordBytes (w : Word) : List Byte := [byteLane w 0, byteLane w 1, byteLane w 2, byteLane w 3]

/-- Byte o of a byte sequence. -/
def byteAt (b : List Byte) (o : Nat) : Byte := b.getD o 0

/-- `LE16(b, o) = b[o] | b[o+1] << 8` (00_scope R11). -/
def le16 (b : List Byte) (o : Nat) : BitVec 16 := (byteAt b o).setWidth 16 ||| (byteAt b (o + 1)).setWidth 16 <<< 8

/-- `LE32(b, o) = LE16(b, o) | LE16(b, o+2) << 16` (00_scope R11). -/
def le32 (b : List Byte) (o : Nat) : Word := (le16 b o).setWidth 32 ||| (le16 b (o + 2)).setWidth 32 <<< 16

/-- `LE48(b, o) = LE32(b, o) | LE16(b, o+4) << 32` (00_scope R11). -/
def le48 (b : List Byte) (o : Nat) : BitVec 48 := (le32 b o).setWidth 48 ||| (le16 b (o + 4)).setWidth 48 <<< 32

/-- A word from four bytes, lane 0 first: `b0 | b1 << 8 | b2 << 16 | b3 << 24`. -/
def wordOfBytes (b0 b1 b2 b3 : Byte) : Word :=
  b0.setWidth 32 ||| b1.setWidth 32 <<< 8 ||| b2.setWidth 32 <<< 16 ||| b3.setWidth 32 <<< 24

/-- `RGBA(r, g, b, a) = r | g << 8 | b << 16 | a << 24` (00_scope R11). -/
def rgba (r g b a : Byte) : Word := wordOfBytes r g b a

/-- The 16 block bytes held in BLK0..BLK3: byte n is `byte(BLK[n // 4], n mod 4)` (10_state R36). -/
def blockBytes (blk : Vector Word 4) : List Byte := blk.toList.flatMap wordBytes

/-- The 8-byte sub-block DCOL, DALPHA and DTEX.CO read: block bytes 0..7 (30_encoding R80). -/
def Latch.subBlock (l : Latch) : List Byte := (blockBytes l.regs.blk).take 8

/-- The 16-byte block DBLK and DTEX read (30_encoding R80). -/
def Latch.block (l : Latch) : List Byte := blockBytes l.regs.blk

/-- The 16-bit operand of EXP565 and BSWAP16: L.ARG0[15:0] (30_encoding R82). -/
def Latch.half (l : Latch) : BitVec 16 := l.regs.arg0.extractLsb' 0 16

/-- DTEX's column i = L.ARG0[1:0] (30_encoding R81). -/
def Latch.column (l : Latch) : Nat := (l.regs.arg0.extractLsb' 0 2).toNat

/-- DTEX's row j = L.ARG1[1:0] (30_encoding R81). -/
def Latch.row (l : Latch) : Nat := (l.regs.arg1.extractLsb' 0 2).toNat

end Sys2Proof.Machine
end

