-- ==== Sys2Proof/Syntax.lean ====
section
/-! DEFINITION. The commands of the TDU: one constructor per row of spec/opcode_table.json (30_encoding R77, R87). No command word carries an operand (R80), so no constructor has an argument. -/

namespace Sys2Proof

/-- The 14 command words of 30_encoding R77. DTEX with M = 1 is the row DTEX.CO (R78, R87). -/
inductive Instr where
  /-- NOP, 43_pixel R184. -/
  | nop
  /-- MAPU, 40_address_mapper R103. -/
  | mapu
  /-- MAPC, 40_address_mapper R107. -/
  | mapc
  /-- EXP565, 41_block_codec R137. -/
  | exp565
  /-- DCOL, 41_block_codec R138. -/
  | dcol
  /-- DALPHA, 41_block_codec R139. -/
  | dalpha
  /-- DBLK, 41_block_codec R140. -/
  | dblk
  /-- DTEX with M = 0, 41_block_codec R141. -/
  | dtex
  /-- DTEX with M = 1, 41_block_codec R141. -/
  | dtexCo
  /-- PACK, 43_pixel R181. -/
  | pack
  /-- BSWAP32, 43_pixel R182. -/
  | bswap32
  /-- BSWAP16, 43_pixel R183. -/
  | bswap16
  /-- ISSUP, 42_format_decoder R150. -/
  | issup
  /-- DECODE, 42_format_decoder R167. -/
  | decode
  deriving DecidableEq, Repr

end Sys2Proof
end

