-- ==== Sys2Proof/WellFormed.lean ====
section
/-! DEFINITION. The checks on terms: commands, the implementation's parameters, host operations. -/

namespace Sys2Proof

/-- Every command is well formed: it has no operand to check (30_encoding R80). -/
def Instr.wf : Instr → Bool
  | .nop | .mapu | .mapc | .exp565 | .dcol | .dalpha | .dblk | .dtex | .dtexCo | .pack | .bswap32 | .bswap16 | .issup
  | .decode => true

/-- PACK_PERM is a permutation of 0, 1, 2, 3 (00_scope R8). -/
def PackPerm.wf (p : PackPerm) : Bool :=
  p.p0 != p.p1 && p.p0 != p.p2 && p.p0 != p.p3 && p.p1 != p.p2 && p.p1 != p.p3 && p.p2 != p.p3

/-- The constraints 00_scope R8 puts on the parameters, but for the injectivity of 40_address_mapper R104, which is the
proposition `Safety.UncObligation`: UNC_SIZES holds (64, 64) and only allowed sizes, BC_TERMS holds each fixed term exactly
once (R108), PACK_PERM is a permutation. -/
def Params.wf (p : Params) : Bool :=
  p.uncSizes.contains (64, 64) && p.uncSizes.all sizeAllowed
    && fixedBcTerms.all (fun t => p.bcTerms.count t == 1) && p.packPerm.wf

/-- A host operation the bus admits: a 32-bit REG access at a multiple of 4 inside REG (20_memory R50, R59), a byte inside
SRC or DST (R50). -/
def Machine.HostOp.wf : Machine.HostOp → Bool
  | .wr off width _ => decide (off < Machine.regSpaceBytes) && width == 32 && off % 4 == 0
  | .rd off width => decide (off < Machine.regSpaceBytes) && width == 32 && off % 4 == 0
  | .srcWrite a _ => decide (a < Machine.byteSpaceBytes)
  | .dstRead a => decide (a < Machine.byteSpaceBytes)
  | .dstWrite a _ => decide (a < Machine.byteSpaceBytes)
  | .wait => true
  | .reset => true

end Sys2Proof
end

