-- ==== Sys2Proof/Decode.lean ====
section
/-! DEFINITION. The command decoder, total on every 32-bit word (30_encoding R75, R76, R89), and the encoder (R77, R87). -/

namespace Sys2Proof

/-- Why a word is illegal: the three cases of 30_encoding R83. -/
inductive Illegal where
  /-- R83 (a): OP >= 0x0D. -/
  | reservedOpcode
  /-- R83 (b): a RES bit is set. -/
  | reservedBits
  /-- R83 (c): M = 1 with OP other than DTEX. -/
  | mOutsideDtex
  deriving DecidableEq, Repr

/-- What the decoder reads from a word. -/
inductive Decoded where
  | instr (i : Instr)
  | illegal (why : Illegal)
  deriving DecidableEq, Repr

/-- The field OP, bits 7:0 (30_encoding R76). -/
def opField (w : Word) : BitVec 8 := w.extractLsb' 0 8

/-- The field M, bit 8 (30_encoding R76). -/
def mField (w : Word) : Bool := w.getLsbD 8

/-- The field RES, bits 31:9 (30_encoding R76). -/
def resField (w : Word) : BitVec 23 := w.extractLsb' 9 23

/-- The opcode map of 30_encoding R77, for a word whose RES bits are 0. -/
def instrOfOp (op : Nat) (m : Bool) : Option Instr :=
  match op, m with
  | 0x00, false => some .nop
  | 0x01, false => some .mapu
  | 0x02, false => some .mapc
  | 0x03, false => some .exp565
  | 0x04, false => some .dcol
  | 0x05, false => some .dalpha
  | 0x06, false => some .dblk
  | 0x07, false => some .dtex
  | 0x07, true  => some .dtexCo
  | 0x08, false => some .pack
  | 0x09, false => some .bswap32
  | 0x0A, false => some .bswap16
  | 0x0B, false => some .issup
  | 0x0C, false => some .decode
  | _, _ => none

/-- The decoding of 30_encoding R89: the three tests in its order, then the opcode map. -/
def decode (w : Word) : Decoded :=
  if resField w ≠ 0 then .illegal .reservedBits
  else if 0x0D ≤ (opField w).toNat then .illegal .reservedOpcode
  else match instrOfOp (opField w).toNat (mField w) with
    | some i => .instr i
    | none => .illegal .mOutsideDtex

/-- The command words of 30_encoding R87. -/
def encode : Instr → Word
  | .nop => 0x00000000
  | .mapu => 0x00000001
  | .mapc => 0x00000002
  | .exp565 => 0x00000003
  | .dcol => 0x00000004
  | .dalpha => 0x00000005
  | .dblk => 0x00000006
  | .dtex => 0x00000007
  | .dtexCo => 0x00000107
  | .pack => 0x00000008
  | .bswap32 => 0x00000009
  | .bswap16 => 0x0000000A
  | .issup => 0x0000000B
  | .decode => 0x0000000C

/-- The command word of an opcode-table row of `nbits` bits numbered as the table numbers them; bits above `nbits` are 0. -/
def tableWord (nbits w : Nat) : Word := BitVec.ofNat 32 (w % 2 ^ nbits)

/-- The instruction the decoder reads from a table word, none where it refuses or where the word does not fit the one
32-bit format (30_encoding R75). -/
def decodeTableWord (nbits w : Nat) : Option Instr :=
  if w % 2 ^ nbits < 2 ^ 32 then
    match decode (tableWord nbits w) with
    | .instr i => some i
    | .illegal _ => none
  else none

end Sys2Proof
end

