-- ==== Sys2Proof/Machine/Flags.lean ====
section
/-! DEFINITION. STATUS: its fields as the host reads them (10_state R24, 60_exceptions R191). The TDU has no other flag (10_state R42). -/

namespace Sys2Proof.Machine

/-- The value of STATUS.ERRCODE (60_exceptions R191). -/
def ErrCode.code : ErrCode → BitVec 4
  | .none => 0
  | .illegalCmd => 1
  | .unsupportedFormat => 2
  | .bufferTooSmall => 3
  | .dstTooSmall => 4
  | .srcIndexRange => 5

/-- STATUS as read: BUSY in bit 0, DONE in bit 1, ERR in bit 2, ERRCODE in bits 11:8, every other bit 0 (10_state R24).
Concatenation, high bits first (00_scope R10). -/
def State.statusWord (s : State) : Word :=
  0#20 ++ s.errCode.code ++ 0#5 ++ BitVec.ofBool s.err ++ BitVec.ofBool s.done ++ BitVec.ofBool s.pending

end Sys2Proof.Machine
end

