-- ==== Sys2Proof/Machine/Ops.lean ====
section
/-! DEFINITION. The operations every meaning shares: byte memories, the register file, free bytes, the DST window, issuing a command, finishing one, and error entry (60_exceptions R196). There is no return from an error: the next issue clears the report (R200). -/

namespace Sys2Proof.Machine

/-! ### SRC and DST (20_memory R50, R62) -/

/-- What an address that memory does not list reads as (log entry 2). -/
def Memory.blank : Byte := 0

/-- The byte at an address. -/
def Memory.read : Memory → Nat → Byte
  | [], _ => Memory.blank
  | (a, b) :: m, k => if k = a then b else Memory.read m k

/-- Stores a byte and keeps the canonical form: the blank byte is not listed. -/
def Memory.write : Memory → Nat → Byte → Memory
  | [], k, v => if v = Memory.blank then [] else [(k, v)]
  | (a, b) :: m, k, v =>
    if k < a then (if v = Memory.blank then (a, b) :: m else (k, v) :: (a, b) :: m)
    else if k = a then (if v = Memory.blank then m else (k, v) :: m)
    else (a, b) :: Memory.write m k v

/-- Stores bytes one after the other. -/
def Memory.writeCells (m : Memory) (cells : List Host.Cell) : Memory :=
  cells.foldl (fun m c => Memory.write m c.1 c.2) m

/-- `MemRead(SRC, addr, n)`: the n bytes at addr..addr+n-1 (00_scope R12). -/
def Memory.readBytes (m : Memory) (addr n : Nat) : List Byte := (List.range n).map (fun k => Memory.read m (addr + k))

/-- The canonical form: addresses strictly rising and inside the space (20_memory R50), no blank byte listed. -/
def Memory.wf (m : Memory) : Bool :=
  decide ((m.map Prod.fst).Pairwise (· < ·)) && m.all (fun c => decide (c.1 < byteSpaceBytes) && c.2 != Memory.blank)

/-! ### The register file (10_state R21) -/

/-- The value a host read of a register returns: ID is a constant (10_state R22), CMD reads 0 (R28), STATUS is
assembled from its fields (R24). -/
def State.readReg (r : Reg) (s : State) : Word :=
  match r with
  | .id => 0x47545801
  | .status => s.statusWord
  | .cmd => 0
  | .format => s.regs.format
  | .width => s.regs.width
  | .height => s.regs.height
  | .srcLen => s.regs.srcLen
  | .dstLen => s.regs.dstLen
  | .arg0 => s.regs.arg0
  | .arg1 => s.regs.arg1
  | .arg2 => s.regs.arg2
  | .result => s.result
  | .errInfo0 => s.errInfo0
  | .errInfo1 => s.errInfo1
  | .blk k => s.regs.blk[k]
  | .tex k => s.tex[k]

/-- The RW registers with one of them changed; the other registers of the map are not among them. -/
def RWRegs.set (r : Reg) (v : Word) (g : RWRegs) : RWRegs :=
  match r with
  | .format => { g with format := v }
  | .width => { g with width := v }
  | .height => { g with height := v }
  | .srcLen => { g with srcLen := v }
  | .dstLen => { g with dstLen := v }
  | .arg0 => { g with arg0 := v }
  | .arg1 => { g with arg1 := v }
  | .arg2 => { g with arg2 := v }
  | .blk k => { g with blk := g.blk.set k v }
  | .id | .status | .cmd | .result | .errInfo0 | .errInfo1 | .tex _ => g

/-! ### The command life cycle (10_state R40) -/

/-- The issue of a word that the unit performs after `delay` host steps: 10_state R40 (a), with the latch of R39. -/
def State.issueWith (w : Word) (delay : Nat) (s : State) : State :=
  { s with
    latch := ⟨w, s.regs⟩, pending := true, done := false, err := false, errCode := .none, errInfo0 := 0, errInfo1 := 0,
    delay := delay, srcDisturbed := false, dstDisturbed := [] }

/-- The issue of a word by the host: the unit performs it "at any later point" (10_state R40 b), after a free but finite
number of host steps (R40 d; log entry 1). -/
def State.issue (w : Word) (s : State) : State :=
  { s.issueWith w (Config.performDelay s.draws) with draws := s.draws + 1 }

/-- The end of a perform step: pending <- 0, BUSY <- 0, DONE <- 1 (10_state R40 b). -/
def State.finish (s : State) : State := { s with pending := false, done := true }

/-- `raise Error(code, info)`: error entry, in one step (60_exceptions R196). -/
def State.raiseError (code : ErrCode) (info : BitVec 64) (s : State) : State :=
  { s with err := true, errCode := code, errInfo0 := info.extractLsb' 0 32, errInfo1 := info.extractLsb' 32 32 }.finish

/-- A command that writes RESULT and ends with no error (10_state R41). -/
def State.finishResult (v : Word) (s : State) : State := { s with result := v }.finish

/-- A command that writes TEX0..TEX15 and ends with no error (10_state R41). -/
def State.finishTex (t : Vector Word 16) (s : State) : State := { s with tex := t }.finish

/-- The error of an illegal command word: ILLEGAL_CMD with the word as info (30_encoding R83, 60_exceptions R192). -/
def State.raiseIllegal (s : State) : State := s.raiseError .illegalCmd (s.latch.cmd.setWidth 64)

/-! ### Free bytes and the window of a pending DECODE (20_memory R67, R68) -/

/-- Every byte at the given DST offsets takes any value: fresh free bytes (log entry 5). -/
def State.havocDst (addrs : List Nat) (s : State) : State :=
  { s with
    dst := s.dst.writeCells (addrs.zipIdx.map (fun ai => (ai.1, Config.freeByte (s.draws + ai.2)))),
    draws := s.draws + addrs.length }

/-- A DECODE is pending (10_state R40; 42_format_decoder R167). -/
def State.decodePending (s : State) : Bool := s.pending && Sys2Proof.decode s.latch.cmd == .instr .decode

/-- The output region of the latched sizes is the DST bytes 0 .. 4*WIDTH*HEIGHT - 1 (20_memory R67); this is its length. -/
def Latch.regionBytes (l : Latch) : Nat := 4 * (l.regs.width.toNat * l.regs.height.toNat)

/-- A DST offset in the window of a pending DECODE (20_memory R67). -/
def State.inDstWindow (addr : Nat) (s : State) : Bool := s.decodePending && decide (addr < s.latch.regionBytes)

/-- An SRC offset the host must keep stable: below L.SRC_LEN while a DECODE is pending (20_memory R68). -/
def State.inSrcWindow (addr : Nat) (s : State) : Bool := s.decodePending && decide (addr < s.latch.regs.srcLen.toNat)

/-- The DST writes of a DECODE that ends with no error: the raster; any value for each of its bytes if the host disturbed
SRC in the window (20_memory R68); any value for each byte the host wrote in the window (R67; log entry 6). -/
def State.writeRaster (cells : List Host.Cell) (s : State) : State :=
  let written := { s with dst := s.dst.writeCells cells }
  let disturbed := if s.srcDisturbed then written.havocDst (cells.map Prod.fst) else written
  disturbed.havocDst s.dstDisturbed

/-- The reset input asserted (70_reset R220 to R223): the unit's state is that of 10_state R43, a pending command is
cancelled, SRC and DST are not touched but for the output region of a cancelled DECODE, whose bytes that exist take any
value (log entry 10). The parameters, the host rule and the host's side stay. -/
def State.resetUnit (s : State) : State :=
  let cancelled :=
    if s.decodePending then s.havocDst (List.range (min s.latch.regionBytes byteSpaceBytes)) else s
  { State.reset with
    src := cancelled.src, dst := cancelled.dst, params := s.params, script := s.script, observed := s.observed,
    draws := cancelled.draws, hostRule := s.hostRule }

end Sys2Proof.Machine
end

