-- ==== Sys2Proof/Machine/Codec.lean ====
section
/-! DEFINITION. The block colour codec and its commands EXP565, DCOL, DALPHA, DBLK, DTEX, DTEX.CO (41_block_codec). Every computation is exact on non-negative integers and fits 8 bits (R142). -/

namespace Sys2Proof.Machine

/-- A colour, one 8-bit value a channel. -/
structure Rgb where
  r : Byte
  g : Byte
  b : Byte
  deriving DecidableEq, Repr

/-- `expand5(v) = (v << 3) | (v >> 2)` (41_block_codec R123). -/
def expand5 (v : BitVec 5) : Byte := v.setWidth 8 <<< 3 ||| v.setWidth 8 >>> 2

/-- `expand6(v) = (v << 2) | (v >> 4)` (41_block_codec R123). -/
def expand6 (v : BitVec 6) : Byte := v.setWidth 8 <<< 2 ||| v.setWidth 8 >>> 4

/-- `E(c)`: R5 = c[15:11], G6 = c[10:5], B5 = c[4:0], each expanded (41_block_codec R122, R123). -/
def expand565 (c : BitVec 16) : Rgb :=
  ⟨expand5 (c.extractLsb' 11 5), expand6 (c.extractLsb' 5 6), expand5 (c.extractLsb' 0 5)⟩

/-- `(wa*a + wb*b) // den` of two 8-bit values, truncating (41_block_codec R125, R126, R132, R133). -/
def blend (wa wb den : Nat) (a b : Byte) : Byte := BitVec.ofNat 8 ((wa * a.toNat + wb * b.toNat) / den)

/-- The same blend in each colour channel: three independent lanes (41_block_codec R142). -/
def blendRgb (wa wb den : Nat) (a b : Rgb) : Rgb := ⟨blend wa wb den a.r b.r, blend wa wb den a.g b.g, blend wa wb den a.b b.b⟩

/-! ### The colour sub-block (41_block_codec R121, R124 to R127) -/

/-- Endpoint 0, `c0 = LE16(cb, 0)`. -/
def colour0 (cb : List Byte) : BitVec 16 := le16 cb 0
/-- Endpoint 1, `c1 = LE16(cb, 2)`. -/
def colour1 (cb : List Byte) : BitVec 16 := le16 cb 2
/-- Texel k's selector, `S[2k+1:2k]` of `S = LE32(cb, 4)` (41_block_codec R121, R127). -/
def selector (cb : List Byte) (k : Nat) : BitVec 2 := (le32 cb 4).extractLsb' (2 * k) 2

/-- `four = (c0 > c1)`, unsigned (41_block_codec R124). -/
def fourMode (cb : List Byte) : Bool := decide ((colour1 cb).toNat < (colour0 cb).toNat)

/-- The palette entry of a selector (41_block_codec R125 in four-colour mode, R126 in three-colour mode). -/
def palette (cb : List Byte) (sel : BitVec 2) : Rgb :=
  let e0 := expand565 (colour0 cb)
  let e1 := expand565 (colour1 cb)
  match sel.toNat with
  | 0 => e0
  | 1 => e1
  | 2 => if fourMode cb then blendRgb 2 1 3 e0 e1 else blendRgb 1 1 2 e0 e1
  | _ => if fourMode cb then blendRgb 1 2 3 e0 e1 else ⟨0, 0, 0⟩

/-! ### The alpha sub-block (41_block_codec R129 to R133) -/

/-- Texel k's alpha code, `A[3k+2:3k]` of `A = LE48(ab, 2)` (41_block_codec R129, R130). -/
def alphaCode (ab : List Byte) (k : Nat) : BitVec 3 := (le48 ab 2).extractLsb' (3 * k) 3

/-- The alpha of a code under endpoints a0 and a1 (41_block_codec R131, R132, R133). -/
def alphaOf (a0 a1 : Byte) (code : BitVec 3) : Byte :=
  let c := code.toNat
  if c = 0 then a0
  else if c = 1 then a1
  else if a1.toNat < a0.toNat then blend (8 - c) (c - 1) 7 a0 a1
  else if c = 6 then 0
  else if c = 7 then 255
  else blend (6 - c) (c - 1) 5 a0 a1

/-- `alpha(k)` of an alpha sub-block: endpoints `a0 = ab[0]`, `a1 = ab[1]` (41_block_codec R129). -/
def alpha (ab : List Byte) (k : Nat) : Byte := alphaOf (byteAt ab 0) (byteAt ab 1) (alphaCode ab k)

/-! ### Texels (41_block_codec R128, R134, R135) -/

/-- `k = 4*j + i`, row-major (41_block_codec R128). -/
def texelIndex (i j : Nat) : Nat := 4 * j + i

/-- `texel_co(cb, i, j)`: alpha always 255 (41_block_codec R134). -/
def texelCo (cb : List Byte) (i j : Nat) : Word :=
  let c := palette cb (selector cb (texelIndex i j))
  rgba c.r c.g c.b 255

/-- `texel_rgba(blk, i, j)`: alpha sub-block in bytes 0..7, colour sub-block in bytes 8..15 (41_block_codec R120), and
punch-through's alpha 0 over the alpha sub-block's value (R135). -/
def texelRgba (blk : List Byte) (i j : Nat) : Word :=
  let ab := blk.take 8
  let cb := blk.drop 8
  let sel := selector cb (texelIndex i j)
  let c := palette cb sel
  let a := if fourMode cb = false ∧ sel = 3 then 0 else alpha ab (texelIndex i j)
  rgba c.r c.g c.b a

/-- The 16 TEX words of a texel function: TEX[k] is the texel at column k mod 4 and row k // 4 (41_block_codec R138 to R140). -/
def texWords (f : Nat → Nat → Word) : Vector Word 16 := Vector.ofFn (fun k => f (k.val % 4) (k.val / 4))

/-- EXP565: `RESULT <- RGBA(r, g, b, 255)` of `E(L.ARG0[15:0])` (41_block_codec R137). -/
def execExp565 (s : State) : Result :=
  let c := expand565 s.latch.half
  .next (s.finishResult (rgba c.r c.g c.b 255))

/-- DCOL (41_block_codec R138). -/
def execDcol (s : State) : Result := .next (s.finishTex (texWords (texelCo s.latch.subBlock)))

/-- DALPHA: `TEX[k] <- RGBA(0, 0, 0, alpha(k))` (41_block_codec R139). -/
def execDalpha (s : State) : Result :=
  .next (s.finishTex (texWords (fun i j => rgba 0 0 0 (alpha s.latch.subBlock (texelIndex i j)))))

/-- DBLK (41_block_codec R140). -/
def execDblk (s : State) : Result := .next (s.finishTex (texWords (texelRgba s.latch.block)))

/-- DTEX with M = 0 (41_block_codec R141). -/
def execDtex (s : State) : Result := .next (s.finishResult (texelRgba s.latch.block s.latch.column s.latch.row))

/-- DTEX with M = 1 (41_block_codec R141). -/
def execDtexCo (s : State) : Result := .next (s.finishResult (texelCo s.latch.subBlock s.latch.column s.latch.row))

end Sys2Proof.Machine
end

