-- ==== Sys2Proof/Machine/Mapper.lean ====
section
/-! DEFINITION. The swizzle address mapper and its commands MAPU and MAPC (40_address_mapper). The maps are functions of the parameters (00_scope R8). -/

namespace Sys2Proof.Machine

/-- A value shifted as a mapper term shifts it, reduced mod 2^32 (00_scope R14). -/
def shiftBy (d : Shift) (v : Word) : Word :=
  match d with
  | .left n => v <<< n.val
  | .right n => v >>> n.val

/-- `term(s, m, d)(x, y)` (00_scope R14). -/
def termValue (t : MapperTerm) (x y : Word) : Word :=
  shiftBy t.shift ((match t.coord with | .x => x | .y => y) &&& t.mask)

/-- The XOR of the terms' values; of an empty list 0 (40_address_mapper R102). -/
def xorTerms (ts : List MapperTerm) (x y : Word) : Word := ts.foldr (fun t acc => termValue t x y ^^^ acc) 0

/-- `base_u(y, width)` (40_address_mapper R101). -/
def baseU (y width : Word) : Word := (y &&& 0xFFFFFFF0#32) * width

/-- `map_uncompressed(x, y, width)`, a texel index (40_address_mapper R102). -/
def mapUncompressed (p : Params) (x y width : Word) : Word := baseU y width ^^^ xorTerms p.uncTerms x y

/-- `base_c(block_y, block_width)` (40_address_mapper R105). -/
def baseC (p : Params) (blockY blockWidth : Word) : Word := (blockY >>> p.bcBaseShift.val) * (blockWidth * p.bcBaseMul)

/-- `map_compressed(block_x, block_y, block_width)`, a block index (40_address_mapper R106). -/
def mapCompressed (p : Params) (blockX blockY blockWidth : Word) : Word :=
  baseC p blockY blockWidth ^^^ xorTerms p.bcTerms blockX blockY

/-- MAPU: `RESULT <- map_uncompressed(L.ARG0, L.ARG1, L.ARG2)` (40_address_mapper R103). -/
def execMapu (s : State) : Result :=
  .next (s.finishResult (mapUncompressed s.params s.latch.regs.arg0 s.latch.regs.arg1 s.latch.regs.arg2))

/-- MAPC: `RESULT <- map_compressed(L.ARG0, L.ARG1, L.ARG2)` (40_address_mapper R107). -/
def execMapc (s : State) : Result :=
  .next (s.finishResult (mapCompressed s.params s.latch.regs.arg0 s.latch.regs.arg1 s.latch.regs.arg2))

end Sys2Proof.Machine
end

