-- ==== Sys2Proof/Machine/Pixel.lean ====
section
/-! DEFINITION. The channel packer and the byte utilities: PACK, BSWAP32, BSWAP16, NOP (43_pixel_utilities). -/

namespace Sys2Proof.Machine

/-- `PACK_fn(s)` (43_pixel_utilities R180). -/
def packFn (p : PackPerm) (w : Word) : Word :=
  wordOfBytes (byteLane w p.p0.val) (byteLane w p.p1.val) (byteLane w p.p2.val) (byteLane w p.p3.val)

/-- NOP: no effect beyond the status update (43_pixel_utilities R184). -/
def execNop (s : State) : Result := .next s.finish

/-- PACK: `RESULT <- PACK_fn(L.ARG0)` (43_pixel_utilities R181). -/
def execPack (s : State) : Result := .next (s.finishResult (packFn s.params.packPerm s.latch.regs.arg0))

/-- BSWAP32 (43_pixel_utilities R182). -/
def execBswap32 (s : State) : Result :=
  let w := s.latch.regs.arg0
  .next (s.finishResult (wordOfBytes (byteLane w 3) (byteLane w 2) (byteLane w 1) (byteLane w 0)))

/-- BSWAP16: `RESULT <- zext_32(byte(h, 0) << 8 | byte(h, 1))` (43_pixel_utilities R183). -/
def execBswap16 (s : State) : Result :=
  let h := s.latch.half.setWidth 32
  .next (s.finishResult (wordOfBytes (byteLane h 1) (byteLane h 0) 0 0))

end Sys2Proof.Machine
end

