-- ==== Sys2Proof/Machine/Format.lean ====
section
/-! DEFINITION. The format decoder: ISSUP and DECODE (42_format_decoder). -/

namespace Sys2Proof.Machine

/-- The two supported formats (42_format_decoder R152). -/
inductive Format where
  /-- Uncompressed8888. -/
  | unc
  /-- BlockCompressedRGBA. -/
  | bc
  deriving DecidableEq, Repr

/-- Format selection: 0x1A and 0x33, all 32 bits compared (42_format_decoder R150, R152). -/
def Format.ofCode (c : Word) : Option Format :=
  if c = 0x1A then some .unc else if c = 0x33 then some .bc else none

/-- ISSUP (42_format_decoder R150). -/
def execIssup (s : State) : Result :=
  .next (s.finishResult (if (Format.ofCode s.latch.regs.arg0).isSome then 1 else 0))

/-- `src_req`, exact (42_format_decoder R153). -/
def Format.srcReq (f : Format) (w h : Nat) : Nat :=
  match f with
  | .unc => 4 * w * h
  | .bc => 16 * (w / 4) * (h / 4)

/-- `dst_req`, exact (42_format_decoder R154). -/
def dstReq (w h : Nat) : Nat := 4 * w * h

/-- The points of a grid in raster order: y ascending, then x ascending (42_format_decoder R156, R159). -/
def gridPoints (w h : Nat) : List (Nat × Nat) :=
  (List.range h).flatMap (fun y => (List.range w).map (fun x => (x, y)))

/-- The destinations of a format: pixels, or blocks (bx, by) with bx < W // 4 and by < H // 4 (42_format_decoder R156, R158). -/
def Format.grid (f : Format) (w h : Nat) : List (Nat × Nat) :=
  match f with
  | .unc => gridPoints w h
  | .bc => gridPoints (w / 4) (h / 4)

/-- How many SRC bytes one destination reads (20_memory R60). -/
def Format.unitBytes : Format → Nat
  | .unc => 4
  | .bc => 16

/-- The SRC byte offset of a destination, exact: `off(x, y)` and `boff(bx, by)` (42_format_decoder R156, R159). -/
def Format.srcOffset (f : Format) (p : Params) (w : Nat) (d : Nat × Nat) : Nat :=
  match f with
  | .unc => 4 * (mapUncompressed p (BitVec.ofNat 32 d.1) (BitVec.ofNat 32 d.2) (BitVec.ofNat 32 w)).toNat
  | .bc => 16 * (mapCompressed p (BitVec.ofNat 32 d.1) (BitVec.ofNat 32 d.2) (BitVec.ofNat 32 (w / 4))).toNat

/-- The offset of the first destination, in raster order, that is not in range, if there is one (42_format_decoder R156, R159). -/
def Format.rangeFailure (f : Format) (p : Params) (w h srcLen : Nat) : Option Nat :=
  ((f.grid w h).map (f.srcOffset p w)).find? (fun off => decide (srcLen < off + f.unitBytes))

/-- The four cells of a pixel's word at a DST offset, byte lane 0 lowest (42_format_decoder R157). -/
def pixelCells (addr : Nat) (v : Word) : List Host.Cell :=
  [(addr, byteLane v 0), (addr + 1, byteLane v 1), (addr + 2, byteLane v 2), (addr + 3, byteLane v 3)]

/-- The DST offset of pixel (x, y) in a raster of width w (20_memory R53). -/
def pixelAddr (w x y : Nat) : Nat := 4 * (y * w + x)

/-- The DST cells one destination gives: one packed texel (42_format_decoder R157), or the 16 texels of a block (R160). -/
def Format.destCells (f : Format) (p : Params) (src : Memory) (w : Nat) (d : Nat × Nat) : List Host.Cell :=
  let raw := src.readBytes (f.srcOffset p w d) f.unitBytes
  match f with
  | .unc => pixelCells (pixelAddr w d.1 d.2) (packFn p.packPerm (le32 raw 0))
  | .bc => (gridPoints 4 4).flatMap (fun t => pixelCells (pixelAddr w (4 * d.1 + t.1) (4 * d.2 + t.2)) (texelRgba raw t.1 t.2))

/-- Every DST cell a DECODE writes (42_format_decoder R157, R160). -/
def Format.rasterCells (f : Format) (p : Params) (src : Memory) (w h : Nat) : List Host.Cell :=
  (f.grid w h).flatMap (f.destCells p src w)

/-- `min(n, 2^64 - 1)` as ERRINFO holds it (60_exceptions R194, R195). -/
def saturate64 (n : Nat) : BitVec 64 := BitVec.ofNat 64 (min n (2 ^ 64 - 1))

/-- DECODE: the four checks in their order, each before any SRC byte is read or DST byte written, then the raster
(42_format_decoder R155, R167). -/
def execDecode (s : State) : Result :=
  let l := s.latch.regs
  let w := l.width.toNat
  let h := l.height.toNat
  match Format.ofCode l.format with
  | none => .next (s.raiseError .unsupportedFormat (l.format.setWidth 64))
  | some f =>
    if l.srcLen.toNat < f.srcReq w h then .next (s.raiseError .bufferTooSmall (saturate64 (f.srcReq w h)))
    else if l.dstLen.toNat < dstReq w h then .next (s.raiseError .dstTooSmall (saturate64 (dstReq w h)))
    else match f.rangeFailure s.params w h l.srcLen.toNat with
      | some off => .next (s.raiseError .srcIndexRange (saturate64 off))
      | none => .next (s.writeRaster (f.rasterCells s.params s.src w h)).finish

end Sys2Proof.Machine
end

