-- ==== Sys2Proof/Machine/Dispatch.lean ====
section
/-! DEFINITION. Which meaning each command has (30_encoding R77). -/

namespace Sys2Proof.Machine

def exec (i : Instr) (s : State) : Host.Outcome State Fault Refusal :=
  match i with
  | .nop => Sys2Proof.Machine.execNop s
  | .mapu => Sys2Proof.Machine.execMapu s
  | .mapc => Sys2Proof.Machine.execMapc s
  | .exp565 => Sys2Proof.Machine.execExp565 s
  | .dcol => Sys2Proof.Machine.execDcol s
  | .dalpha => Sys2Proof.Machine.execDalpha s
  | .dblk => Sys2Proof.Machine.execDblk s
  | .dtex => Sys2Proof.Machine.execDtex s
  | .dtexCo => Sys2Proof.Machine.execDtexCo s
  | .pack => Sys2Proof.Machine.execPack s
  | .bswap32 => Sys2Proof.Machine.execBswap32 s
  | .bswap16 => Sys2Proof.Machine.execBswap16 s
  | .issup => Sys2Proof.Machine.execIssup s
  | .decode => Sys2Proof.Machine.execDecode s

end Sys2Proof.Machine
end

