-- ==== Sys2Proof/Machine/Turns.lean ====
section
/-! DEFINITION. The turns of the two agents (00_scope R6): the unit's perform step (10_state R40 b) and the host's operations (30_encoding R86, 70_reset R232). -/

namespace Sys2Proof.Machine

/-- The unit's perform step: decodes L.CMD and carries out the command's rule, or raises ILLEGAL_CMD (10_state R40 b,
30_encoding R89). -/
def perform (s : State) : Result :=
  match Sys2Proof.decode s.latch.cmd with
  | .instr i => exec i s
  | .illegal _ => .next s.raiseIllegal

/-- The unit moves next when a command is pending and its delay has run out, or the host has nothing to do but wait for it
(30_encoding R86's WAIT ends because the perform step is weakly fair, 10_state R40 d; log entry 1). -/
def State.unitTurn (s : State) : Bool :=
  s.pending && (match s.script with | [] => true | .wait :: _ => true | _ :: _ => s.delay == 0)

/-- A REG access the bus admits gives `k`; any other is refused (20_memory R59), or faults outside REG (R50). -/
def admitReg (off width : Nat) (k : State) : Result :=
  if regSpaceBytes ≤ off then .fault .regOutOfSpace
  else if width ≠ 32 then .refused .regAccessWidth
  else if off % 4 ≠ 0 then .refused .regAccessMisaligned
  else .next k

/-- A host read of a REG offset: 0 where R21 names no register (10_state R38). -/
def State.busRead (off : Nat) (s : State) : Word :=
  match Reg.ofOffset off with
  | some r => s.readReg r
  | none => 0

/-- A host write of a register: RO ignores it; CMD issues the word, or drops it while a command is pending (10_state R28,
R40 a, c); RW stores it. -/
def State.writeReg (r : Reg) (v : Word) (s : State) : State :=
  match r.access with
  | .ro => s
  | .wo => if s.pending then s else s.issue v
  | .rw => { s with regs := s.regs.set r v }

/-- A host write of a REG offset: ignored where R21 names no register (10_state R38). -/
def State.busWrite (off : Nat) (v : Word) (s : State) : State :=
  match Reg.ofOffset off with
  | some r => s.writeReg r v
  | none => s

/-- A read's value, the newest of `observed` (log entry 16). -/
def State.observe (o : Observation) (s : State) : State := { s with observed := s.observed ++ [o] }

/-- A host write gives `k`, unless 70_reset R232 forbids it and the host rule refuses such a write (log entry 6). -/
def State.admitWrite (s : State) (forbidden : Bool) (why : Refusal) (k : State) : Result :=
  if forbidden = true ∧ s.hostRule = .refuse then .refused why else .next k

/-- A host write of an SRC byte; inside the window of a pending DECODE it disturbs it (20_memory R68). -/
def State.hostSrcWrite (a : Nat) (v : Byte) (s : State) : State :=
  { s with src := s.src.write a v, srcDisturbed := s.srcDisturbed || s.inSrcWindow a }

/-- A host write of a DST byte; inside the window of a pending DECODE the byte takes any value (20_memory R67; log entry 6). -/
def State.hostDstWrite (a : Nat) (v : Byte) (s : State) : State :=
  if s.inDstWindow a then { s.havocDst [a] with dstDisturbed := s.dstDisturbed ++ [a] }
  else { s with dst := s.dst.write a v }

/-- A host read of a DST byte; inside the window of a pending DECODE it returns any value (20_memory R67, U7). -/
def State.hostDstRead (a : Nat) (s : State) : State :=
  if s.inDstWindow a then { s.observe (.dst a (Config.freeByte s.draws)) with draws := s.draws + 1 }
  else s.observe (.dst a (s.dst.read a))

/-- One host operation (30_encoding R86, 70_reset R232). The table of R232 forbids only the cases of
93_implementation_defined U3 to U5: a CMD write while a command is pending is dropped (10_state R40 c, U16). A WAIT whose STATUS read
returns BUSY = 1 stands again. -/
def hostStep (op : HostOp) (s : State) : Result :=
  match op with
  | .wr off width v => admitReg off width (s.busWrite off v)
  | .rd off width => admitReg off width (s.observe (.reg off (s.busRead off)))
  | .wait => .next (if s.pending then { s with script := .wait :: s.script } else s)
  | .srcWrite a v =>
    if a < byteSpaceBytes then s.admitWrite (s.inSrcWindow a) .srcWriteInWindow (s.hostSrcWrite a v)
    else .fault .srcOutOfSpace
  | .dstRead a => if a < byteSpaceBytes then .next (s.hostDstRead a) else .fault .dstOutOfSpace
  | .dstWrite a v =>
    if a < byteSpaceBytes then s.admitWrite (s.inDstWindow a) .dstWriteInWindow (s.hostDstWrite a v)
    else .fault .dstOutOfSpace
  | .reset => .next s.resetUnit

/-- The host's turn: its next operation, which uses up one step of the unit's delay. With nothing left to do it takes no
step, and an idle unit takes none (60_exceptions R210): the state stays (log entry 13). -/
def hostTurn (s : State) : Result :=
  match s.script with
  | [] => .next s
  | op :: rest => hostStep op { s with script := rest, delay := s.delay - 1 }

end Sys2Proof.Machine
end

