-- ==== Sys2Proof/Machine/Step.lean ====
section
/-! DEFINITION. One step of the machine: the unit's turn or the host's (00_scope R6, 10_state R40). The TDU fetches no instruction (10_state R23): what a fetch would be is the pending command in the latch. -/

namespace Sys2Proof.Machine

/-- One step. -/
def step (s : State) : Host.Outcome State Fault Refusal := if s.unitTurn then perform s else hostTurn s

/-- s with a command word issued and due (log entry 12): as a host write of the word to CMD issues it in an idle unit
(10_state R40 a), with no host step left to wait for, so that the next step performs it. -/
def State.withFetchWord (s : State) (nbits w : Nat) : State := s.issueWith (Sys2Proof.tableWord nbits w) 0

end Sys2Proof.Machine
end

