-- ==== Sys2Proof/Safety.lean ====
section
/-! DEFINITION. What claims call a good state and a dutiful host: the invariant of every step, the duties of 70_reset R232, the obligation on UNC_TERMS (40_address_mapper R104), and the end of a run (70_reset R233). -/

namespace Sys2Proof.Machine

/-- The report in STATUS and ERRINFO agrees with itself (10_state R25, R26, R27, R35; 60_exceptions R191): a pending
command has neither DONE nor ERR; ERR comes with DONE; without ERR the code is NONE and ERRINFO is 0; with it the code is
one of R191's errors. -/
structure State.ReportOk (s : State) : Prop where
  busyClean : s.pending = true → s.done = false ∧ s.err = false
  errDone   : s.err = true → s.done = true
  noError   : s.err = false → s.errCode = .none ∧ s.errInfo0 = 0 ∧ s.errInfo1 = 0
  errCoded  : s.err = true → s.errCode ≠ .none

/-- Nothing the host did since the last issue disturbs a DECODE (20_memory R67, R68). -/
def State.undisturbed (s : State) : Bool := !s.srcDisturbed && s.dstDisturbed.isEmpty

/-- The invariant every step keeps: both memories canonical and inside their spaces, the report in agreement, the parameters
as 00_scope R8 constrains them, every disturbed offset one that DST has, and nothing disturbed where the host rule refuses
what disturbs (70_reset R232). -/
structure State.Inv (s : State) : Prop where
  srcWf       : s.src.wf = true
  dstWf       : s.dst.wf = true
  reportOk    : s.ReportOk
  paramsWf    : s.params.wf = true
  disturbedIn : ∀ a ∈ s.dstDisturbed, a < byteSpaceBytes
  refusedIn   : s.hostRule = .refuse → s.undisturbed = true

/-- What the machine takes from the host in a state: an access the bus admits, and no write that 70_reset R232 forbids where
the host rule refuses it. A CMD write while a command is pending is taken, and dropped (10_state R40 c). -/
def HostOp.admitted (op : HostOp) (s : State) : Bool :=
  op.wf && match op with
    | .srcWrite a _ => !(s.inSrcWindow a && s.hostRule == .refuse)
    | .dstWrite a _ => !(s.inDstWindow a && s.hostRule == .refuse)
    | .wr _ _ _ | .rd _ _ | .wait | .dstRead _ | .reset => true

/-- What 70_reset R232 lets the host do in a state: no CMD write while a command is pending (R229), no SRC write below
L.SRC_LEN and no DST write in the output region while a DECODE is pending (R228), and only accesses the bus admits. -/
def HostOp.dutiful (op : HostOp) (s : State) : Bool :=
  op.wf && match op with
    | .wr off _ _ => !(off == Reg.cmd.offset && s.pending)
    | .srcWrite a _ => !s.inSrcWindow a
    | .dstWrite a _ => !s.inDstWindow a
    | .rd _ _ | .wait | .dstRead _ | .reset => true

/-- The next step is the unit's, or an operation the host may do (70_reset R232). -/
def State.dutifulTurn (s : State) : Bool :=
  s.unitTurn || match s.script with
    | [] => true
    | op :: _ => op.dutiful s

/-- A run of a host program has ended: its last operation is done and no command is pending (70_reset R233). -/
def State.runEnded (s : State) : Bool := s.script.isEmpty && !s.pending

/-- The map of texels at width W is injective on 0 <= x < W, 0 <= y < H (40_address_mapper R104 a). -/
def UncInjective (p : Params) (w h : Nat) : Prop :=
  ∀ x₁ y₁ x₂ y₂ : Nat, x₁ < w → y₁ < h → x₂ < w → y₂ < h →
    mapUncompressed p (BitVec.ofNat 32 x₁) (BitVec.ofNat 32 y₁) (BitVec.ofNat 32 w)
      = mapUncompressed p (BitVec.ofNat 32 x₂) (BitVec.ofNat 32 y₂) (BitVec.ofNat 32 w) →
    x₁ = x₂ ∧ y₁ = y₂

/-- The obligation on UNC_TERMS (40_address_mapper R104): injective at every size of UNC_SIZES, (64, 64) among them, and
there onto the texel indices 0 .. 4095. The model does not assume it of its parameters: a claim takes it as a premise
(log entry 3). -/
structure UncObligation (p : Params) : Prop where
  injective : ∀ wh ∈ p.uncSizes, UncInjective p wh.1 wh.2
  has64     : (64, 64) ∈ p.uncSizes
  range64   : ∀ x y : Nat, x < 64 → y < 64 →
    (mapUncompressed p (BitVec.ofNat 32 x) (BitVec.ofNat 32 y) 64).toNat < 4096
  onto64    : ∀ n : Nat, n < 4096 → ∃ x y : Nat, x < 64 ∧ y < 64 ∧
    (mapUncompressed p (BitVec.ofNat 32 x) (BitVec.ofNat 32 y) 64).toNat = n

/-- The padding duty: both sizes multiples of 64 (70_reset R226). -/
def padded (w h : Nat) : Bool := w % 64 == 0 && h % 64 == 0

end Sys2Proof.Machine
end

