-- ==== Sys2Proof/Certificates/Slice0/Obligations.lean ====
section
/-! DEFINITION. The statements for the provers. The helpers under Sys2Proof.Spec say in plain arithmetic on natural numbers what the spec's formulas say; they do not call the model. -/

namespace Sys2Proof.Spec

/-- Byte lane k of a word, as a number (00_scope R11). -/
def lane (w : Word) (k : Nat) : Nat := w.toNat / 256 ^ k % 256

/-- `expand5` on a number below 32 (41_block_codec R123): the shifts as a product and a quotient. -/
def expand5 (v : Nat) : Nat := v * 8 + v / 4

/-- `expand6` on a number below 64 (41_block_codec R123). -/
def expand6 (v : Nat) : Nat := v * 4 + v / 16

/-- The expanded red of a 5-6-5 colour: R5 = c[15:11] (41_block_codec R122). -/
def red (c : Nat) : Nat := expand5 (c / 2048 % 32)

/-- The expanded green: G6 = c[10:5] (41_block_codec R122). -/
def green (c : Nat) : Nat := expand6 (c / 32 % 64)

/-- The expanded blue: B5 = c[4:0] (41_block_codec R122). -/
def blue (c : Nat) : Nat := expand5 (c % 32)

/-- One channel of a palette entry, from the endpoints' values e0 and e1 in that channel (41_block_codec R124 to R126). -/
def paletteLane (c0 c1 sel e0 e1 : Nat) : Nat :=
  if sel = 0 then e0
  else if sel = 1 then e1
  else if c1 < c0 then (if sel = 2 then (2 * e0 + e1) / 3 else (e0 + 2 * e1) / 3)
  else if sel = 2 then (e0 + e1) / 2
  else 0

/-- The alpha of a code (41_block_codec R131 to R133). -/
def alphaLane (a0 a1 code : Nat) : Nat :=
  if code = 0 then a0
  else if code = 1 then a1
  else if a1 < a0 then (a0 * (8 - code) + a1 * (code - 1)) / 7
  else if code = 6 then 0
  else if code = 7 then 255
  else (a0 * (6 - code) + a1 * (code - 1)) / 5

/-- The red, green and blue lanes of a texel word are those of palette entry `sel` under endpoints c0 and c1. -/
def hasColour (v : Word) (c0 c1 sel : Nat) : Prop :=
  lane v 0 = paletteLane c0 c1 sel (red c0) (red c1) ∧
  lane v 1 = paletteLane c0 c1 sel (green c0) (green c1) ∧
  lane v 2 = paletteLane c0 c1 sel (blue c0) (blue c1)

/-- Texel k's alpha from the 8 alpha bytes held in two words: a0, a1, then the 48 code bits (41_block_codec R129, R130). -/
def alphaFrom (b0 b1 : Word) (k : Nat) : Nat :=
  alphaLane (b0.toNat % 256) (b0.toNat / 256 % 256) ((b0.toNat / 65536 + b1.toNat * 65536) / 8 ^ k % 8)

/-- An illegal command word: the three cases of 30_encoding R83 on the word as a number. -/
def illegalWord (w : Nat) : Prop :=
  0x0D ≤ w % 256 ∨ w / 512 ≠ 0 ∨ (w / 256 % 2 = 1 ∧ w % 256 ≠ 0x07)

/-- The source byte that lands in output byte k of the channel packer (43_pixel R180). -/
def permAt (p : PackPerm) (k : Nat) : Nat :=
  if k = 0 then p.p0.val else if k = 1 then p.p1.val else if k = 2 then p.p2.val else p.p3.val

/-- `off(x, y)` (42_format_decoder R156). -/
def texelOffset (p : Params) (w x y : Nat) : Nat :=
  4 * (Machine.mapUncompressed p (BitVec.ofNat 32 x) (BitVec.ofNat 32 y) (BitVec.ofNat 32 w)).toNat

/-- `boff(bx, by)` (42_format_decoder R159). -/
def blockOffset (p : Params) (w bx by' : Nat) : Nat :=
  16 * (Machine.mapCompressed p (BitVec.ofNat 32 bx) (BitVec.ofNat 32 by') (BitVec.ofNat 32 (w / 4))).toNat

/-- A destination that comes before (x, y) in raster order (42_format_decoder R156). -/
def before (x' y' x y : Nat) : Prop := y' < y ∨ (y' = y ∧ x' < x)

/-- The latched sizes pass the checks of an Uncompressed8888 DECODE: format, both sizes, every pixel in range
(42_format_decoder R152 to R156). -/
structure uncChecksPass (s : Machine.State) : Prop where
  format : s.latch.regs.format = 0x1A
  src    : 4 * (s.latch.regs.width.toNat * s.latch.regs.height.toNat) ≤ s.latch.regs.srcLen.toNat
  dst    : 4 * (s.latch.regs.width.toNat * s.latch.regs.height.toNat) ≤ s.latch.regs.dstLen.toNat
  range  : ∀ x y, x < s.latch.regs.width.toNat → y < s.latch.regs.height.toNat →
    texelOffset s.params s.latch.regs.width.toNat x y + 4 ≤ s.latch.regs.srcLen.toNat

/-- The latched sizes pass the checks of a BlockCompressedRGBA DECODE (42_format_decoder R152 to R155, R159). -/
structure bcChecksPass (s : Machine.State) : Prop where
  format : s.latch.regs.format = 0x33
  src    : 16 * ((s.latch.regs.width.toNat / 4) * (s.latch.regs.height.toNat / 4)) ≤ s.latch.regs.srcLen.toNat
  dst    : 4 * (s.latch.regs.width.toNat * s.latch.regs.height.toNat) ≤ s.latch.regs.dstLen.toNat
  range  : ∀ bx by', bx < s.latch.regs.width.toNat / 4 → by' < s.latch.regs.height.toNat / 4 →
    blockOffset s.params s.latch.regs.width.toNat bx by' + 16 ≤ s.latch.regs.srcLen.toNat

end Sys2Proof.Spec

open Sys2Proof Sys2Proof.Machine

/-! ### Encoding and the perform step -/

/-- Decode and encode agree: every command's word decodes to it, and a word that decodes to a command is that command's word
of 30_encoding R87. No two words and no two commands share a meaning. -/
def Obligations.DecodeEncodeAgree : Prop :=
  (∀ i : Instr, i.wf = true → Sys2Proof.decode (encode i) = .instr i) ∧
  ∀ (w : Word) (i : Instr), Sys2Proof.decode w = .instr i → encode i = w

/-- 30_encoding R87: words written out from the fields RES, M and OP of R76 decode to the commands R77 gives them. -/
def Obligations.WordsOfEachFamilyDecode : Prop :=
  Sys2Proof.decode (0#23 ++ 0#1 ++ 0x00#8) = .instr .nop ∧
  Sys2Proof.decode (0#23 ++ 0#1 ++ 0x01#8) = .instr .mapu ∧
  Sys2Proof.decode (0#23 ++ 0#1 ++ 0x07#8) = .instr .dtex ∧
  Sys2Proof.decode (0#23 ++ 1#1 ++ 0x07#8) = .instr .dtexCo ∧
  Sys2Proof.decode (0#23 ++ 0#1 ++ 0x09#8) = .instr .bswap32 ∧
  Sys2Proof.decode (0#23 ++ 0#1 ++ 0x0C#8) = .instr .decode

/-- The step runs the pending command: at the unit's turn it is exec of the command L.CMD decodes to (10_state R40 b). The
same for a word placed by withFetchWord (log entry 12). -/
def Obligations.StepRunsThePendingCommand : Prop :=
  (∀ (s : State) (i : Instr), s.unitTurn = true → Sys2Proof.decode s.latch.cmd = .instr i → step s = exec i s) ∧
  ∀ (s : State) (i : Instr),
    step (s.withFetchWord 32 (encode i).toNat) = exec i (s.withFetchWord 32 (encode i).toNat)

/-- 30_encoding R83: performing an illegal word raises ILLEGAL_CMD with the word zero-extended as info, and writes nothing
else. -/
def Obligations.IllegalWordRaisesIllegalCmd : Prop :=
  ∀ s : State, s.unitTurn = true → Spec.illegalWord s.latch.cmd.toNat →
    step s = .next { s with
      err := true, errCode := .illegalCmd, errInfo0 := s.latch.cmd, errInfo1 := 0, pending := false, done := true }

/-- 30_encoding R84: every word R83 does not call illegal is exactly one command, and performing it runs that command. -/
def Obligations.LegalWordIsExactlyOneCommand : Prop :=
  ∀ s : State, s.unitTurn = true → ¬ Spec.illegalWord s.latch.cmd.toNat →
    ∃ i : Instr, encode i = s.latch.cmd ∧ (∀ j : Instr, encode j = s.latch.cmd → j = i) ∧ step s = exec i s

/-! ### The command life cycle -/

/-- 10_state R28: a CMD write while BUSY = 0 issues the word (the latch of R39, the report cleared, R40 a); while BUSY = 1 it
is dropped and only the host's own side moves on; reads return 0. That the unit's delay counts the host's step is the model's
choice (log entry 1). -/
def Obligations.CmdWriteIssuesOrIsDropped : Prop :=
  ∀ (s : State) (w : Word) (rest : List HostOp), s.script = .wr 0x008 32 w :: rest →
    (s.pending = false → ∃ d n, step s = .next { s with
      latch := ⟨w, s.regs⟩, pending := true, done := false, err := false, errCode := .none, errInfo0 := 0, errInfo1 := 0,
      script := rest, delay := d, draws := n, srcDisturbed := false, dstDisturbed := [] }) ∧
    (s.pending = true → s.delay ≠ 0 → step s = .next { s with script := rest, delay := s.delay - 1 }) ∧
    s.busRead 0x008 = 0

/-- 10_state R40 (d), weak fairness, as the model's finite delay gives it (log entry 1): a pending command whose host does
nothing the machine turns away (70_reset R232, log entry 6) and no reset is performed, with the latch it was issued with, after at most `delay` host steps. -/
def Obligations.PendingCommandIsPerformed : Prop :=
  ∀ s : State, s.pending = true → (∀ op ∈ s.script, op.admitted s = true ∧ op ≠ .reset) →
    ∃ (k : Nat) (t u : State), k ≤ s.delay ∧ Host.Core.run Sys2Proof.core k s = .next t ∧ t.unitTurn = true ∧
      t.latch = s.latch ∧ step t = .next u ∧ u.pending = false ∧ u.done = true

/-- 10_state R39: the perform step reads its operands only from L, so host writes to the RW registers after the issue change
nothing of what it does. -/
def Obligations.PerformReadsOnlyTheLatch : Prop :=
  ∀ (s : State) (g : RWRegs), ∃ t : State,
    perform s = .next t ∧ perform { s with regs := g } = .next { t with regs := g }

/-- 10_state R41 and R40 (b), the frame of every command: each command completes, and writes RESULT, TEX or DST only where
R41's table says, DST only below 4*WIDTH*HEIGHT of its latch (or at an offset the host itself disturbed, 20_memory R67),
no RW register, no latch, no SRC byte. -/
def Obligations.CommandsWriteOnlyTheirResults : Prop :=
  ∀ (i : Instr) (s : State), s.Inv → ∃ t : State, exec i s = .next t ∧ t.pending = false ∧ t.done = true ∧
    t.regs = s.regs ∧ t.latch = s.latch ∧ t.src = s.src ∧ t.params = s.params ∧ t.script = s.script ∧
    t.observed = s.observed ∧
    (t.result = s.result ∨ i ∈ [.mapu, .mapc, .exp565, .dtex, .dtexCo, .pack, .bswap32, .bswap16, .issup]) ∧
    (t.tex = s.tex ∨ i ∈ [.dcol, .dalpha, .dblk]) ∧
    (t.dst = s.dst ∨ (i = .decode ∧ ∀ a, 4 * (s.latch.regs.width.toNat * s.latch.regs.height.toNat) ≤ a →
      a ∉ s.dstDisturbed → t.dst.read a = s.dst.read a))

/-- 60_exceptions R199: a command that raises an error has written nothing to RESULT, TEX0..TEX15 or DST. -/
def Obligations.ErrorsWriteNoResult : Prop :=
  ∀ s t : State, s.unitTurn = true → s.err = false → step s = .next t → t.err = true →
    t.result = s.result ∧ t.tex = s.tex ∧ t.dst = s.dst

/-- 60_exceptions R201: every command but DECODE raises no error once its word has decoded. -/
def Obligations.OnlyDecodeRaisesAfterDecoding : Prop :=
  ∀ (i : Instr) (s : State), i ≠ .decode → s.err = false →
    ∃ t : State, exec i s = .next t ∧ t.err = false ∧ t.errCode = s.errCode ∧ t.errInfo0 = s.errInfo0 ∧ t.errInfo1 = s.errInfo1

/-! ### Registers and the bus -/

/-- 10_state R24: the fields of STATUS at their bits, every other bit 0, and host writes to STATUS ignored; the codes are
those of 60_exceptions R191. -/
def Obligations.StatusFields : Prop :=
  ∀ s : State,
    (s.busRead 0x004).toNat =
      s.pending.toNat + 2 * s.done.toNat + 4 * s.err.toNat + 256 *
        (match s.errCode with
          | .none => 0 | .illegalCmd => 1 | .unsupportedFormat => 2 | .bufferTooSmall => 3 | .dstTooSmall => 4
          | .srcIndexRange => 5) ∧
    ∀ v : Word, s.busWrite 0x004 v = s

/-- 10_state R21: an RW register reads back as written and no other register's value changes; writes to RO registers are
ignored. -/
def Obligations.RegisterWrites : Prop :=
  ∀ (s : State) (r : Reg) (v : Word),
    (r.access = .rw →
      (s.busWrite r.offset v).busRead r.offset = v ∧
      (∀ r' : Reg, r' ≠ r → (s.busWrite r.offset v).busRead r'.offset = s.busRead r'.offset) ∧
      ∃ g : RWRegs, s.busWrite r.offset v = { s with regs := g }) ∧
    (r.access = .ro → s.busWrite r.offset v = s)

/-- 10_state R22: ID always reads 0x47545801; no command, no host operation and no reset changes it. -/
def Obligations.IdIsConstant : Prop :=
  ∀ s t : State, step s = .next t → s.busRead 0x000 = 0x47545801 ∧ t.busRead 0x000 = 0x47545801

/-- 10_state R38: offsets R21 does not name read 0 and ignore writes; the reserved bits of STATUS read 0; every RW register
stores all 32 bits. -/
def Obligations.ReservedSpace : Prop :=
  ∀ (s : State) (v : Word),
    (∀ off : Nat, (∀ r : Reg, r.offset ≠ off) → s.busRead off = 0 ∧ s.busWrite off v = s) ∧
    (s.busRead 0x004).toNat / 8 % 32 = 0 ∧ (s.busRead 0x004).toNat / 4096 = 0 ∧
    ∀ r : Reg, r.access = .rw → (s.busWrite r.offset v).busRead r.offset = v

/-- 20_memory R63: a host read changes nothing but what the host has observed. A host write is the bus write of its value
(RegisterWrites and CmdWriteIssuesOrIsDropped say what that leaves); at an RW register's offset it stores the value in that
register and does nothing else, and at an offset where no register but an RO one stands it does nothing. -/
def Obligations.HostRegAccessEffects : Prop :=
  ∀ (s : State) (rest : List HostOp) (off : Nat), s.unitTurn = false → off < 4096 → off % 4 = 0 →
    (s.script = .rd off 32 :: rest → step s = .next { s with
      script := rest, delay := s.delay - 1, observed := s.observed ++ [.reg off (s.busRead off)] }) ∧
    ∀ v : Word, s.script = .wr off 32 v :: rest →
      step s = .next (State.busWrite off v { s with script := rest, delay := s.delay - 1 }) ∧
      (∀ r : Reg, r.offset = off → r.access = .rw → step s = .next { s with
        script := rest, delay := s.delay - 1, regs := s.regs.set r v }) ∧
      ((∀ r : Reg, r.offset = off → r.access = .ro) → step s = .next { s with script := rest, delay := s.delay - 1 })

/-- 20_memory R59: a REG access is admitted only when it is 32 bits wide at a multiple of 4; any other is refused. -/
def Obligations.OddRegAccessIsRefused : Prop :=
  ∀ (s : State) (op : HostOp) (rest : List HostOp) (off width : Nat) (v : Word), s.unitTurn = false →
    s.script = op :: rest → (op = .wr off width v ∨ op = .rd off width) → off < 4096 →
    ((width = 32 ∧ off % 4 = 0 → ∃ t, step s = .next t) ∧
     (¬ (width = 32 ∧ off % 4 = 0) → step s = .refused .regAccessWidth ∨ step s = .refused .regAccessMisaligned))

/-- 10_state R73's register half and 70_reset R227: on the host's turn RESULT and TEX keep the last command's values unless
the host asserts reset, and ERRINFO keeps its value unless a command is issued too. -/
def Obligations.HostTurnKeepsResults : Prop :=
  ∀ (s t : State) (op : HostOp) (rest : List HostOp), s.unitTurn = false → s.script = op :: rest → op ≠ .reset →
    step s = .next t → t.result = s.result ∧ t.tex = s.tex ∧
      ((t.errInfo0 = s.errInfo0 ∧ t.errInfo1 = s.errInfo1) ∨
       (s.pending = false ∧ t.pending = true ∧ t.errInfo0 = 0 ∧ t.errInfo1 = 0))

/-! ### SRC and DST -/

/-- Two canonical memories that read the same at every address are the same list (log entry 2): equal memories are equal
data. -/
def Obligations.CanonicalMemoryIsUnique : Prop :=
  ∀ m m' : Memory, m.wf = true → m'.wf = true → (∀ a, m.read a = m'.read a) → m = m'

/-- 20_memory R54: no write to DST changes a byte of SRC and no write to SRC changes a byte of DST: SRC changes only in the
host's own SRC write, which leaves DST alone. -/
def Obligations.SrcAndDstAreSeparate : Prop :=
  ∀ s t : State, step s = .next t →
    t.src = s.src ∨
    (t.dst = s.dst ∧ s.unitTurn = false ∧ ∃ a v rest, s.script = .srcWrite a v :: rest ∧ t.src = s.src.write a v)

/-- Host byte accesses: an SRC write the host rule does not refuse stores its byte and no other, and marks the pending DECODE
as disturbed exactly when it lies in its window (20_memory R68); outside any window a DST write stores its byte and no other
and a DST read returns the byte (30_encoding R86, 70_reset R232; log entry 6). -/
def Obligations.HostByteAccesses : Prop :=
  ∀ (s : State) (a : Nat) (v : Byte) (rest : List HostOp), s.unitTurn = false → s.src.wf = true → s.dst.wf = true →
    a < 2 ^ 32 →
    (s.script = .srcWrite a v :: rest → s.hostRule = .anyValue ∨ s.inSrcWindow a = false → ∃ m, step s = .next { s with
        script := rest, delay := s.delay - 1, src := m, srcDisturbed := s.srcDisturbed || s.inSrcWindow a } ∧
      ∀ k, m.read k = if k = a then v else s.src.read k) ∧
    (s.script = .dstWrite a v :: rest → s.inDstWindow a = false → ∃ m, step s = .next { s with
        script := rest, delay := s.delay - 1, dst := m } ∧
      ∀ k, m.read k = if k = a then v else s.dst.read k) ∧
    (s.script = .dstRead a :: rest → s.inDstWindow a = false → step s = .next { s with
        script := rest, delay := s.delay - 1, observed := s.observed ++ [.dst a (s.dst.read a)] })

/-- 20_memory R67: inside the window of a pending DECODE a host DST read returns a free byte, and a host DST write, where the
host rule lets it go on (log entry 6), leaves the byte at a free byte and marks it; the window is the region
0 .. 4*WIDTH*HEIGHT - 1 of the latch. Which free byte is the model's counter (log entry 5). -/
def Obligations.DstWindowIsFree : Prop :=
  ∀ (s : State) (a : Nat) (v : Byte) (rest : List HostOp), s.unitTurn = false → s.pending = true →
    s.latch.cmd = 0x0000000C → a < 2 ^ 32 → a < 4 * (s.latch.regs.width.toNat * s.latch.regs.height.toNat) →
    s.dst.wf = true →
    (s.script = .dstRead a :: rest → ∃ n, step s = .next { s with
        script := rest, delay := s.delay - 1, draws := s.draws + 1,
        observed := s.observed ++ [.dst a (Config.freeByte n)] } ∧ s.draws ≤ n ∧ n < s.draws + 1) ∧
    (s.script = .dstWrite a v :: rest → s.hostRule = .anyValue → ∃ m n, step s = .next { s with
        script := rest, delay := s.delay - 1, draws := s.draws + 1, dst := m, dstDisturbed := s.dstDisturbed ++ [a] } ∧
      s.draws ≤ n ∧ n < s.draws + 1 ∧ ∀ k, m.read k = if k = a then Config.freeByte n else s.dst.read k)

/-! ### The address mapper -/

/-- 00_scope R14: a mapper term's value, on numbers. -/
def Obligations.MapperTermValue : Prop :=
  ∀ (m : Word) (n : Fin 32) (x y : Word),
    (termValue ⟨.x, m, .left n⟩ x y).toNat = (x &&& m).toNat * 2 ^ n.val % 2 ^ 32 ∧
    (termValue ⟨.y, m, .left n⟩ x y).toNat = (y &&& m).toNat * 2 ^ n.val % 2 ^ 32 ∧
    (termValue ⟨.x, m, .right n⟩ x y).toNat = (x &&& m).toNat / 2 ^ n.val ∧
    (termValue ⟨.y, m, .right n⟩ x y).toNat = (y &&& m).toNat / 2 ^ n.val

/-- 40_address_mapper R101, R102, R103: MAPU writes the base of the coarse row group, y with its low four bits cleared times
the width mod 2^32, XORed with every term of UNC_TERMS, and changes nothing else but STATUS. -/
def Obligations.MapuResult : Prop :=
  ∀ s : State, ∃ base v : Word,
    base.toNat = s.latch.regs.arg1.toNat / 16 * 16 * s.latch.regs.arg2.toNat % 2 ^ 32 ∧
    v = (s.params.uncTerms.map (fun t => termValue t s.latch.regs.arg0 s.latch.regs.arg1)).foldl (· ^^^ ·) base ∧
    exec .mapu s = .next { s with result := v, pending := false, done := true }

/-- 40_address_mapper R105, R106, R107: MAPC writes its base, block_y shifted times the row stride mod 2^32, XORed with
every term of BC_TERMS, and changes nothing else but STATUS. -/
def Obligations.MapcResult : Prop :=
  ∀ s : State, ∃ base v : Word,
    base.toNat = s.latch.regs.arg1.toNat / 2 ^ s.params.bcBaseShift.val *
      (s.latch.regs.arg2.toNat * s.params.bcBaseMul.toNat % 2 ^ 32) % 2 ^ 32 ∧
    v = (s.params.bcTerms.map (fun t => termValue t s.latch.regs.arg0 s.latch.regs.arg1)).foldl (· ^^^ ·) base ∧
    exec .mapc s = .next { s with result := v, pending := false, done := true }

/-- 40_address_mapper R110: both maps send the origin to 0, for every width and every parameter value. -/
def Obligations.MapsSendOriginToZero : Prop :=
  ∀ (p : Params) (w bw : Word), mapUncompressed p 0 0 w = 0 ∧ mapCompressed p 0 0 bw = 0

/-- 40_address_mapper R109: both maps depend only on the multiset of terms, and two equal terms cancel. -/
def Obligations.TermOrderDoesNotMatter : Prop :=
  ∀ (p : Params) (ts : List MapperTerm) (t : MapperTerm) (x y w : Word),
    (ts.Perm p.uncTerms → mapUncompressed { p with uncTerms := ts } x y w = mapUncompressed p x y w) ∧
    (ts.Perm p.bcTerms → mapCompressed { p with bcTerms := ts } x y w = mapCompressed p x y w) ∧
    mapUncompressed { p with uncTerms := t :: t :: p.uncTerms } x y w = mapUncompressed p x y w ∧
    mapCompressed { p with bcTerms := t :: t :: p.bcTerms } x y w = mapCompressed p x y w

/-- 40_address_mapper R114: each term is linear over XOR in its coordinate, the XOR of a list of terms is linear in both
coordinates together, and for fixed y and width each map is linear in x up to its value at x = 0. -/
def Obligations.TermPartIsXorLinear : Prop :=
  (∀ (t : MapperTerm) (a b c : Word),
    (t.coord = .x → termValue t (a ^^^ b) c = termValue t a c ^^^ termValue t b c) ∧
    (t.coord = .y → termValue t c (a ^^^ b) = termValue t c a ^^^ termValue t c b)) ∧
  (∀ (ts : List MapperTerm) (x₁ x₂ y₁ y₂ : Word),
    xorTerms ts (x₁ ^^^ x₂) (y₁ ^^^ y₂) = xorTerms ts x₁ y₁ ^^^ xorTerms ts x₂ y₂) ∧
  ∀ (p : Params) (x₁ x₂ y w : Word),
    mapUncompressed p (x₁ ^^^ x₂) y w ^^^ mapUncompressed p 0 y w = mapUncompressed p x₁ y w ^^^ mapUncompressed p x₂ y w ∧
    mapCompressed p (x₁ ^^^ x₂) y w ^^^ mapCompressed p 0 y w = mapCompressed p x₁ y w ^^^ mapCompressed p x₂ y w

/-- 40_address_mapper R108: under well-formed parameters BC_TERMS is the two fixed terms and others, neither of them among the
others, so that the compressed map XORs block_y's bit 1 into index bit 7 once and its bit 2 into index bit 8 once, beside the
base and the other terms. -/
def Obligations.FixedCompressedTerms : Prop :=
  ∀ p : Params, p.wf = true → ∃ others : List MapperTerm,
    (⟨.y, 0x2, .left 6⟩ :: ⟨.y, 0x4, .left 6⟩ :: others).Perm p.bcTerms ∧
    ⟨.y, 0x2, .left 6⟩ ∉ others ∧ ⟨.y, 0x4, .left 6⟩ ∉ others ∧
    ∀ x y w : Word, mapCompressed p x y w =
      (y &&& 2#32) <<< 6 ^^^ (y &&& 4#32) <<< 6 ^^^
        (others.map (fun t => termValue t x y)).foldl (· ^^^ ·) ((y >>> p.bcBaseShift.val) * (w * p.bcBaseMul))

/-! ### The block colour codec -/

/-- 41_block_codec R122, R123, R137: EXP565 writes the expanded channels of L.ARG0[15:0] with alpha 255, and changes nothing
else but STATUS. -/
def Obligations.Exp565Result : Prop :=
  ∀ s : State, ∃ v : Word, exec .exp565 s = .next { s with result := v, pending := false, done := true } ∧
    Spec.lane v 0 = Spec.red (s.latch.regs.arg0.toNat % 65536) ∧
    Spec.lane v 1 = Spec.green (s.latch.regs.arg0.toNat % 65536) ∧
    Spec.lane v 2 = Spec.blue (s.latch.regs.arg0.toNat % 65536) ∧ Spec.lane v 3 = 255

/-- 41_block_codec R121, R124 to R127, R134, R138: DCOL writes to each TEX[k] the palette entry of texel k's selector, with
endpoints and selectors little-endian in L.BLK0 and L.BLK1, alpha 255, and changes nothing else but STATUS. -/
def Obligations.DcolTexels : Prop :=
  ∀ s : State, ∃ tex : Vector Word 16, exec .dcol s = .next { s with tex := tex, pending := false, done := true } ∧
    ∀ k : Fin 16,
      Spec.hasColour tex[k] (s.latch.regs.blk[0].toNat % 65536) (s.latch.regs.blk[0].toNat / 65536)
        (s.latch.regs.blk[1].toNat / 4 ^ k.val % 4) ∧
      Spec.lane tex[k] 3 = 255

/-- 41_block_codec R129 to R133, R139: DALPHA writes to each TEX[k] RGB 0 and texel k's alpha, from the endpoints and the 48
code bits in L.BLK0 and L.BLK1, and changes nothing else but STATUS. -/
def Obligations.DalphaTexels : Prop :=
  ∀ s : State, ∃ tex : Vector Word 16, exec .dalpha s = .next { s with tex := tex, pending := false, done := true } ∧
    ∀ k : Fin 16, Spec.lane tex[k] 0 = 0 ∧ Spec.lane tex[k] 1 = 0 ∧ Spec.lane tex[k] 2 = 0 ∧
      Spec.lane tex[k] 3 = Spec.alphaFrom s.latch.regs.blk[0] s.latch.regs.blk[1] k

/-- 41_block_codec R120, R135, R140: DBLK takes alpha from L.BLK0, L.BLK1 and colour from L.BLK2, L.BLK3; in three-colour
mode a texel with selector 3 has alpha 0 whatever its code. It changes nothing else but STATUS. -/
def Obligations.DblkTexels : Prop :=
  ∀ s : State, ∃ tex : Vector Word 16, exec .dblk s = .next { s with tex := tex, pending := false, done := true } ∧
    ∀ k : Fin 16,
      Spec.hasColour tex[k] (s.latch.regs.blk[2].toNat % 65536) (s.latch.regs.blk[2].toNat / 65536)
        (s.latch.regs.blk[3].toNat / 4 ^ k.val % 4) ∧
      Spec.lane tex[k] 3 =
        if s.latch.regs.blk[2].toNat % 65536 ≤ s.latch.regs.blk[2].toNat / 65536 ∧
            s.latch.regs.blk[3].toNat / 4 ^ k.val % 4 = 3 then 0
        else Spec.alphaFrom s.latch.regs.blk[0] s.latch.regs.blk[1] k

/-- 41_block_codec R141 with 30_encoding R81: DTEX with M = 0 returns the value DBLK writes to TEX[4*j + i] and DTEX.CO the
value DCOL writes there, for i and j the low two bits of L.ARG0 and L.ARG1; both change nothing else but STATUS. -/
def Obligations.DtexIsOneTexel : Prop :=
  ∀ s : State, ∃ texB texC : Vector Word 16,
    exec .dblk s = .next { s with tex := texB, pending := false, done := true } ∧
    exec .dtex s = .next { s with
      result := texB.toList.getD (4 * (s.latch.regs.arg1.toNat % 4) + s.latch.regs.arg0.toNat % 4) 0,
      pending := false, done := true } ∧
    exec .dcol s = .next { s with tex := texC, pending := false, done := true } ∧
    exec .dtexCo s = .next { s with
      result := texC.toList.getD (4 * (s.latch.regs.arg1.toNat % 4) + s.latch.regs.arg0.toNat % 4) 0,
      pending := false, done := true }

/-- 41_block_codec R143: with equal endpoints, selectors 0, 1 and 2 give the colour E(c0) and selector 3 gives RGB 0. -/
def Obligations.EqualEndpoints : Prop :=
  ∀ (s t : State) (c : Nat), s.latch.regs.blk[0].toNat % 65536 = c → s.latch.regs.blk[0].toNat / 65536 = c →
    exec .dcol s = .next t → ∀ k : Fin 16,
      (s.latch.regs.blk[1].toNat / 4 ^ k.val % 4 ≠ 3 →
        Spec.lane t.tex[k] 0 = Spec.red c ∧ Spec.lane t.tex[k] 1 = Spec.green c ∧ Spec.lane t.tex[k] 2 = Spec.blue c) ∧
      (s.latch.regs.blk[1].toNat / 4 ^ k.val % 4 = 3 → t.tex[k] = 0xFF000000)

/-! ### Channel packer and byte utilities -/

/-- 43_pixel_utilities R184 with 10_state R40 (a): NOP changes nothing but STATUS; performed after its issue it leaves
STATUS = 0x00000002 and ERRINFO = 0. -/
def Obligations.NopClearsTheReport : Prop :=
  ∀ s : State, exec .nop s = .next { s with pending := false, done := true } ∧
    ∀ (w : Word) (n : Nat), ∃ t : State, exec .nop (s.issueWith w n) = .next t ∧
      t.busRead 0x004 = 0x00000002 ∧ t.busRead 0x030 = 0 ∧ t.busRead 0x034 = 0 ∧
      t.result = s.result ∧ t.tex = s.tex ∧ t.regs = s.regs ∧ t.src = s.src ∧ t.dst = s.dst

/-- 43_pixel_utilities R181: PACK puts byte lane p_k of L.ARG0 in lane k of RESULT and changes nothing else but STATUS. -/
def Obligations.PackResult : Prop :=
  ∀ s : State, ∃ v : Word, exec .pack s = .next { s with result := v, pending := false, done := true } ∧
    ∀ k < 4, Spec.lane v k = Spec.lane s.latch.regs.arg0 (Spec.permAt s.params.packPerm k)

/-- 43_pixel_utilities R180: PACK_fn's byte lanes, its bijectivity on u32 for every permutation, and the default as its own
inverse. -/
def Obligations.PackFnIsABijection : Prop :=
  (∀ (p : PackPerm) (w : Word), ∀ k < 4, Spec.lane (packFn p w) k = Spec.lane w (Spec.permAt p k)) ∧
  (∀ p : PackPerm, p.wf = true → (∀ a b : Word, packFn p a = packFn p b → a = b) ∧ ∀ b : Word, ∃ a : Word, packFn p a = b) ∧
  ∀ w : Word, packFn defaultPackPerm (packFn defaultPackPerm w) = w

/-- 43_pixel_utilities R182: BSWAP32 reverses the byte lanes of L.ARG0 into RESULT, changes nothing else but STATUS, and
applied to its own result gives back the operand. -/
def Obligations.Bswap32Result : Prop :=
  ∀ s : State, ∃ v : Word, exec .bswap32 s = .next { s with result := v, pending := false, done := true } ∧
    (∀ k < 4, Spec.lane v k = Spec.lane s.latch.regs.arg0 (3 - k)) ∧
    ∀ s' : State, s'.latch.regs.arg0 = v →
      exec .bswap32 s' = .next { s' with result := s.latch.regs.arg0, pending := false, done := true }

/-- 43_pixel_utilities R183: BSWAP16 swaps the two bytes of L.ARG0[15:0], with RESULT bits 31:16 zero, and changes nothing
else but STATUS. -/
def Obligations.Bswap16Result : Prop :=
  ∀ s : State, ∃ v : Word, exec .bswap16 s = .next { s with result := v, pending := false, done := true } ∧
    v.toNat = s.latch.regs.arg0.toNat % 256 * 256 + s.latch.regs.arg0.toNat / 256 % 256

/-! ### The format decoder -/

/-- 42_format_decoder R150: ISSUP gives 1 for 0x1A and 0x33, comparing all 32 bits, and 0 for every other code, and changes
nothing else but STATUS. -/
def Obligations.IssupResult : Prop :=
  ∀ s : State, exec .issup s = .next { s with
    result := if s.latch.regs.arg0.toNat = 0x1A ∨ s.latch.regs.arg0.toNat = 0x33 then 1 else 0,
    pending := false, done := true }

/-- 42_format_decoder R152: any format but the two raises UNSUPPORTED_FORMAT with the code as info, whatever else would
fail. -/
def Obligations.DecodeUnsupportedFormat : Prop :=
  ∀ s : State, s.latch.regs.format ≠ 0x1A → s.latch.regs.format ≠ 0x33 →
    exec .decode s = .next { s with
      err := true, errCode := .unsupportedFormat, errInfo0 := s.latch.regs.format, errInfo1 := 0,
      pending := false, done := true }

/-- 42_format_decoder R153 with 60_exceptions R194: a source size above SRC_LEN, computed exactly, raises BUFFER_TOO_SMALL
with the required size saturated at 2^64 - 1, before the destination is looked at. -/
def Obligations.DecodeBufferTooSmall : Prop :=
  ∀ (s : State) (req : Nat),
    (s.latch.regs.format = 0x1A ∧ req = 4 * s.latch.regs.width.toNat * s.latch.regs.height.toNat) ∨
    (s.latch.regs.format = 0x33 ∧ req = 16 * (s.latch.regs.width.toNat / 4) * (s.latch.regs.height.toNat / 4)) →
    s.latch.regs.srcLen.toNat < req →
    ∃ i0 i1 : Word, exec .decode s = .next { s with
        err := true, errCode := .bufferTooSmall, errInfo0 := i0, errInfo1 := i1, pending := false, done := true } ∧
      i1.toNat * 2 ^ 32 + i0.toNat = min req (2 ^ 64 - 1)

/-- 42_format_decoder R154 with 60_exceptions R195: when the source size passes, a destination size 4*W*H above DST_LEN
raises DST_TOO_SMALL with the required size. -/
def Obligations.DecodeDstTooSmall : Prop :=
  ∀ (s : State) (req : Nat),
    (s.latch.regs.format = 0x1A ∧ req = 4 * s.latch.regs.width.toNat * s.latch.regs.height.toNat) ∨
    (s.latch.regs.format = 0x33 ∧ req = 16 * (s.latch.regs.width.toNat / 4) * (s.latch.regs.height.toNat / 4)) →
    req ≤ s.latch.regs.srcLen.toNat →
    s.latch.regs.dstLen.toNat < 4 * s.latch.regs.width.toNat * s.latch.regs.height.toNat →
    ∃ i0 i1 : Word, exec .decode s = .next { s with
        err := true, errCode := .dstTooSmall, errInfo0 := i0, errInfo1 := i1, pending := false, done := true } ∧
      i1.toNat * 2 ^ 32 + i0.toNat = min (4 * s.latch.regs.width.toNat * s.latch.regs.height.toNat) (2 ^ 64 - 1)

/-- 42_format_decoder R156 with 60_exceptions R197: when both sizes pass and some pixel is not in range, an
Uncompressed8888 DECODE raises SRC_INDEX_RANGE with the offset of the first such pixel in raster order. -/
def Obligations.DecodeTexelOutOfRange : Prop :=
  ∀ (s : State) (x y : Nat), s.latch.regs.format = 0x1A →
    4 * (s.latch.regs.width.toNat * s.latch.regs.height.toNat) ≤ s.latch.regs.srcLen.toNat →
    4 * (s.latch.regs.width.toNat * s.latch.regs.height.toNat) ≤ s.latch.regs.dstLen.toNat →
    x < s.latch.regs.width.toNat → y < s.latch.regs.height.toNat →
    s.latch.regs.srcLen.toNat < Spec.texelOffset s.params s.latch.regs.width.toNat x y + 4 →
    (∀ x' y', x' < s.latch.regs.width.toNat → y' < s.latch.regs.height.toNat → Spec.before x' y' x y →
      Spec.texelOffset s.params s.latch.regs.width.toNat x' y' + 4 ≤ s.latch.regs.srcLen.toNat) →
    ∃ i0 i1 : Word, exec .decode s = .next { s with
        err := true, errCode := .srcIndexRange, errInfo0 := i0, errInfo1 := i1, pending := false, done := true } ∧
      i1.toNat * 2 ^ 32 + i0.toNat = Spec.texelOffset s.params s.latch.regs.width.toNat x y

/-- 42_format_decoder R159 with 60_exceptions R197: the same for the first block, in block raster order, that is not in
range. -/
def Obligations.DecodeBlockOutOfRange : Prop :=
  ∀ (s : State) (bx by' : Nat), s.latch.regs.format = 0x33 →
    16 * ((s.latch.regs.width.toNat / 4) * (s.latch.regs.height.toNat / 4)) ≤ s.latch.regs.srcLen.toNat →
    4 * (s.latch.regs.width.toNat * s.latch.regs.height.toNat) ≤ s.latch.regs.dstLen.toNat →
    bx < s.latch.regs.width.toNat / 4 → by' < s.latch.regs.height.toNat / 4 →
    s.latch.regs.srcLen.toNat < Spec.blockOffset s.params s.latch.regs.width.toNat bx by' + 16 →
    (∀ x' y', x' < s.latch.regs.width.toNat / 4 → y' < s.latch.regs.height.toNat / 4 → Spec.before x' y' bx by' →
      Spec.blockOffset s.params s.latch.regs.width.toNat x' y' + 16 ≤ s.latch.regs.srcLen.toNat) →
    ∃ i0 i1 : Word, exec .decode s = .next { s with
        err := true, errCode := .srcIndexRange, errInfo0 := i0, errInfo1 := i1, pending := false, done := true } ∧
      i1.toNat * 2 ^ 32 + i0.toNat = Spec.blockOffset s.params s.latch.regs.width.toNat bx by'

/-- 42_format_decoder R157 with R155, 20_memory R53: an undisturbed Uncompressed8888 DECODE whose checks pass ends with no
error; byte k of every pixel (x, y) is the source byte PACK_PERM picks from the texel's four; every DST byte from 4*W*H on
keeps its value; nothing else changes but STATUS. -/
def Obligations.DecodeUncompressedRaster : Prop :=
  ∀ s : State, Spec.uncChecksPass s → s.undisturbed = true → s.dst.wf = true →
    ∃ d : Memory, exec .decode s = .next { s with dst := d, pending := false, done := true } ∧
      (∀ x y k, x < s.latch.regs.width.toNat → y < s.latch.regs.height.toNat → k < 4 →
        d.read (4 * (y * s.latch.regs.width.toNat + x) + k) =
          s.src.read (Spec.texelOffset s.params s.latch.regs.width.toNat x y + Spec.permAt s.params.packPerm k)) ∧
      ∀ a, 4 * (s.latch.regs.width.toNat * s.latch.regs.height.toNat) ≤ a → d.read a = s.dst.read a

/-- 42_format_decoder R160 and R163: an undisturbed BlockCompressedRGBA DECODE whose checks pass ends with no error; texel
(i, j) of block (bx, by) lands at pixel (4*bx + i, 4*by + j) as its decoded word, byte lane 0 lowest; pixels no whole block
covers, and every DST byte from 4*W*H on, keep their bytes; nothing else changes but STATUS. -/
def Obligations.DecodeCompressedRaster : Prop :=
  ∀ s : State, Spec.bcChecksPass s → s.undisturbed = true → s.dst.wf = true →
    ∃ d : Memory, exec .decode s = .next { s with dst := d, pending := false, done := true } ∧
      (∀ bx by' i j k, bx < s.latch.regs.width.toNat / 4 → by' < s.latch.regs.height.toNat / 4 → i < 4 → j < 4 → k < 4 →
        (d.read (4 * ((4 * by' + j) * s.latch.regs.width.toNat + (4 * bx + i)) + k)).toNat =
          Spec.lane (texelRgba (s.src.readBytes (Spec.blockOffset s.params s.latch.regs.width.toNat bx by') 16) i j) k) ∧
      (∀ x y k, x < s.latch.regs.width.toNat → y < s.latch.regs.height.toNat → k < 4 →
        4 * (s.latch.regs.width.toNat / 4) ≤ x ∨ 4 * (s.latch.regs.height.toNat / 4) ≤ y →
        d.read (4 * (y * s.latch.regs.width.toNat + x) + k) = s.dst.read (4 * (y * s.latch.regs.width.toNat + x) + k)) ∧
      ∀ a, 4 * (s.latch.regs.width.toNat * s.latch.regs.height.toNat) ≤ a → d.read a = s.dst.read a

/-- 42_format_decoder R171: where the sizes are in UNC_SIZES and UNC_TERMS meets 40_address_mapper R104, a texture the host
tiled by the map comes back in raster order, each pixel packed. That the size checks pass and nothing disturbs the window
are premises. -/
def Obligations.DecodeInvertsTheTiling : Prop :=
  ∀ (s : State) (m : Memory) (pattern : Nat → Nat → Word), UncObligation s.params →
    (s.latch.regs.width.toNat, s.latch.regs.height.toNat) ∈ s.params.uncSizes →
    Spec.uncChecksPass s → s.undisturbed = true → s.dst.wf = true → m.wf = true →
    s.src = m.writeCells ((gridPoints s.latch.regs.width.toNat s.latch.regs.height.toNat).flatMap (fun d =>
      pixelCells (Spec.texelOffset s.params s.latch.regs.width.toNat d.1 d.2) (pattern d.1 d.2))) →
    ∃ t : State, exec .decode s = .next t ∧ t.err = s.err ∧
      ∀ x y k, x < s.latch.regs.width.toNat → y < s.latch.regs.height.toNat → k < 4 →
        (t.dst.read (4 * (y * s.latch.regs.width.toNat + x) + k)).toNat =
          Spec.lane (pattern x y) (Spec.permAt s.params.packPerm k)

/-- 42_format_decoder R164: with width or height 0 an undisturbed DECODE of a supported format changes nothing but STATUS,
whatever SRC and DST hold and however long they are; an unsupported format still fails. -/
def Obligations.DecodeZeroSize : Prop :=
  ∀ s : State, s.latch.regs.width = 0 ∨ s.latch.regs.height = 0 → s.undisturbed = true →
    (s.latch.regs.format = 0x1A ∨ s.latch.regs.format = 0x33 →
      exec .decode s = .next { s with pending := false, done := true }) ∧
    (¬ (s.latch.regs.format = 0x1A ∨ s.latch.regs.format = 0x33) →
      exec .decode s = .next { s with
        err := true, errCode := .unsupportedFormat, errInfo0 := s.latch.regs.format, errInfo1 := 0,
        pending := false, done := true })

/-- 42_format_decoder R161: the pixels of a DECODE may be written in any order: the raster that results is the same memory. -/
def Obligations.DecodeOrderIsUnobservable : Prop :=
  ∀ (f : Format) (p : Params) (src dst : Memory) (w h : Nat) (cells : List Host.Cell),
    dst.wf = true → 4 * (w * h) < 2 ^ 32 → cells.Perm (f.rasterCells p src w h) →
    dst.writeCells cells = dst.writeCells (f.rasterCells p src w h)

/-- 20_memory R67, R68: an Uncompressed8888 DECODE whose checks pass but whose window the host disturbed still completes with
no error. Every DST byte the host wrote in the window is a free byte. If the host wrote SRC in the window, every byte of
every pixel is a free byte; if not, every byte the host did not write holds exactly what the raster gives. Bytes outside both
keep their values. Which free bytes is the model's counter (log entries 5, 6). -/
def Obligations.DisturbedDecodeIsFree : Prop :=
  ∀ s : State, Spec.uncChecksPass s → s.Inv →
    ∃ (d : Memory) (n : Nat), exec .decode s = .next { s with dst := d, draws := n, pending := false, done := true } ∧
      (∀ a ∈ s.dstDisturbed, ∃ m, s.draws ≤ m ∧ m < n ∧ d.read a = Config.freeByte m) ∧
      (s.srcDisturbed = true → ∀ a, a < 4 * (s.latch.regs.width.toNat * s.latch.regs.height.toNat) →
        ∃ m, s.draws ≤ m ∧ m < n ∧ d.read a = Config.freeByte m) ∧
      (s.srcDisturbed = false → ∀ x y k, x < s.latch.regs.width.toNat → y < s.latch.regs.height.toNat → k < 4 →
        4 * (y * s.latch.regs.width.toNat + x) + k ∉ s.dstDisturbed →
        d.read (4 * (y * s.latch.regs.width.toNat + x) + k) =
          s.src.read (Spec.texelOffset s.params s.latch.regs.width.toNat x y + Spec.permAt s.params.packPerm k)) ∧
      ∀ a, 4 * (s.latch.regs.width.toNat * s.latch.regs.height.toNat) ≤ a → a ∉ s.dstDisturbed → d.read a = s.dst.read a

/-! ### Reset -/

/-- 70_reset R221, R222, R223: the reset input leaves every register of R21 at 0 but ID, L and pending 0, whatever the unit
was doing; SRC is not touched, and DST is not but in the output region of a pending DECODE it cancels, whose bytes are free
bytes after it. -/
def Obligations.ResetInput : Prop :=
  ∀ (s : State) (rest : List HostOp), s.unitTurn = false → s.script = .reset :: rest → s.dst.wf = true →
    ∃ t : State, step s = .next t ∧
      (∀ r : Reg, t.busRead r.offset = if r = .id then 0x47545801 else 0) ∧
      t.pending = false ∧ t.latch = ⟨0, ⟨0, 0, 0, 0, 0, 0, 0, 0, #v[0, 0, 0, 0]⟩⟩ ∧
      t.src = s.src ∧ (¬ (s.pending = true ∧ s.latch.cmd = 0x0000000C) → t.dst = s.dst) ∧
      (s.pending = true ∧ s.latch.cmd = 0x0000000C → ∀ a, a < 2 ^ 32 →
        a < 4 * (s.latch.regs.width.toNat * s.latch.regs.height.toNat) → ∃ n, t.dst.read a = Config.freeByte n) ∧
      ∀ a, 4 * (s.latch.regs.width.toNat * s.latch.regs.height.toNat) ≤ a → t.dst.read a = s.dst.read a

/-- 10_state R43: after power-on reset ID reads 0x47545801 and every other register 0, pending is 0 and every field of L is
0. -/
def Obligations.ResetValues : Prop :=
  (∀ r : Reg, State.reset.busRead r.offset = if r = .id then 0x47545801 else 0) ∧
  State.reset.pending = false ∧ State.reset.latch = ⟨0, ⟨0, 0, 0, 0, 0, 0, 0, 0, #v[0, 0, 0, 0]⟩⟩

/-! ### Invariants and the dutiful host -/

/-- Every step keeps the invariant: both memories canonical and inside their spaces, the report coherent (BUSY excludes DONE
and ERR, ERRINFO 0 without an error, only the codes of 60_exceptions R191), the parameters within 00_scope R8, and
nothing disturbed under the host rule that refuses what disturbs (70_reset R232). -/
def Obligations.StepKeepsInvariant : Prop :=
  ∀ s t : State, s.Inv → step s = .next t → t.Inv

/-- The invariant holds after reset, for every value of the open parameters. -/
def Obligations.ResetHasInvariant : Prop := State.reset.Inv

/-- The parameters are fixed (00_scope R8), and so is the host rule: no step changes them. That they stand in the state is the
model's choice (log entries 3, 6). -/
def Obligations.ParametersAreFixed : Prop :=
  ∀ s t : State, step s = .next t → t.params = s.params ∧ t.hostRule = s.hostRule

/-- 70_reset R232: a host that does only what the table allows never stops the machine and never disturbs a DECODE's window,
so that the exact DECODE statements apply to every run of it. -/
def Obligations.DutifulHostNeverDisturbs : Prop :=
  ∀ s : State, s.undisturbed = true → s.dutifulTurn = true → ∃ t : State, step s = .next t ∧ t.undisturbed = true

/-! ### Forbidden host writes and disturbed blocks -/

/-- 70_reset R232: of the host writes inside the space, the machine admits no SRC write below L.SRC_LEN and no DST write in
the output region while a DECODE is pending: under the host rule `refuse`, that of State.reset, it refuses them by name, and
nothing else of theirs. Under `anyValue` such an SRC write goes on and marks the DECODE (20_memory R68). The two host rules
are the model's way to hold the two treatments of 93_implementation_defined U3 and U4 (log entry 6). -/
def Obligations.ForbiddenHostWrites : Prop :=
  ∀ (s : State) (a : Nat) (v : Byte) (rest : List HostOp), s.unitTurn = false → a < 2 ^ 32 →
    (s.script = .srcWrite a v :: rest →
      (s.hostRule = .refuse ∧ s.pending = true ∧ s.latch.cmd = 0x0000000C ∧ a < s.latch.regs.srcLen.toNat →
        step s = .refused .srcWriteInWindow) ∧
      (s.hostRule = .anyValue ∧ s.pending = true ∧ s.latch.cmd = 0x0000000C ∧ a < s.latch.regs.srcLen.toNat →
        ∃ t, step s = .next t ∧ t.srcDisturbed = true) ∧
      (¬ (s.pending = true ∧ s.latch.cmd = 0x0000000C ∧ a < s.latch.regs.srcLen.toNat) →
        ∃ t, step s = .next t ∧ t.srcDisturbed = s.srcDisturbed)) ∧
    (s.script = .dstWrite a v :: rest →
      (s.hostRule = .refuse ∧ s.pending = true ∧ s.latch.cmd = 0x0000000C ∧
          a < 4 * (s.latch.regs.width.toNat * s.latch.regs.height.toNat) →
        step s = .refused .dstWriteInWindow) ∧
      (¬ (s.pending = true ∧ s.latch.cmd = 0x0000000C ∧
          a < 4 * (s.latch.regs.width.toNat * s.latch.regs.height.toNat)) →
        ∃ t, step s = .next t ∧ t.dstDisturbed = s.dstDisturbed)) ∧
    State.reset.hostRule = .refuse

/-- 20_memory R67, R68: DisturbedDecodeIsFree for a BlockCompressedRGBA DECODE, whose bytes are those of the pixels whole blocks cover
(42_format_decoder R160, R163); the region's other bytes keep their values unless the host wrote them. -/
def Obligations.DisturbedBlockDecodeIsFree : Prop :=
  ∀ s : State, Spec.bcChecksPass s → s.Inv →
    ∃ (d : Memory) (n : Nat), exec .decode s = .next { s with dst := d, draws := n, pending := false, done := true } ∧
      (∀ a ∈ s.dstDisturbed, ∃ m, s.draws ≤ m ∧ m < n ∧ d.read a = Config.freeByte m) ∧
      (∀ bx by' i j k, bx < s.latch.regs.width.toNat / 4 → by' < s.latch.regs.height.toNat / 4 → i < 4 → j < 4 → k < 4 →
        (s.srcDisturbed = true → ∃ m, s.draws ≤ m ∧ m < n ∧
          d.read (4 * ((4 * by' + j) * s.latch.regs.width.toNat + (4 * bx + i)) + k) = Config.freeByte m) ∧
        (s.srcDisturbed = false → 4 * ((4 * by' + j) * s.latch.regs.width.toNat + (4 * bx + i)) + k ∉ s.dstDisturbed →
          (d.read (4 * ((4 * by' + j) * s.latch.regs.width.toNat + (4 * bx + i)) + k)).toNat =
            Spec.lane (texelRgba (s.src.readBytes (Spec.blockOffset s.params s.latch.regs.width.toNat bx by') 16) i j) k)) ∧
      (∀ x y k, x < s.latch.regs.width.toNat → y < s.latch.regs.height.toNat → k < 4 →
        4 * (s.latch.regs.width.toNat / 4) ≤ x ∨ 4 * (s.latch.regs.height.toNat / 4) ≤ y →
        4 * (y * s.latch.regs.width.toNat + x) + k ∉ s.dstDisturbed →
        d.read (4 * (y * s.latch.regs.width.toNat + x) + k) = s.dst.read (4 * (y * s.latch.regs.width.toNat + x) + k)) ∧
      ∀ a, 4 * (s.latch.regs.width.toNat * s.latch.regs.height.toNat) ≤ a → a ∉ s.dstDisturbed → d.read a = s.dst.read a
end

