-- ==== Sys2Proof/Laws/Bytes.lean ====
section
/-! SUPPORT. Byte lanes of the words the model builds, and the points of a raster grid. -/

namespace Sys2Proof.Machine

@[simp] theorem byteLane_wordOfBytes_0 (a b c d : Byte) : byteLane (wordOfBytes a b c d) 0 = a := by
  ext i hi
  have h1 : i < 8 := hi
  have h2 : i < 16 := by omega
  have h3 : i < 24 := by omega
  have h4 : i < 32 := by omega
  simp [byteLane, wordOfBytes, h1, h2, h3, h4]

@[simp] theorem byteLane_wordOfBytes_1 (a b c d : Byte) : byteLane (wordOfBytes a b c d) 1 = b := by
  ext i hi
  have h1 : ¬ 8 + i < 8 := by omega
  have h2 : 8 + i < 16 := by omega
  have h3 : 8 + i < 24 := by omega
  have h4 : 8 + i < 32 := by omega
  simp [byteLane, wordOfBytes, h1, h2, h3, h4, hi]

@[simp] theorem byteLane_wordOfBytes_2 (a b c d : Byte) : byteLane (wordOfBytes a b c d) 2 = c := by
  ext i hi
  have h1 : ¬ 16 + i < 8 := by omega
  have h2 : ¬ 16 + i < 16 := by omega
  have h3 : 16 + i < 24 := by omega
  have h4 : 16 + i < 32 := by omega
  have e : 16 + i - 8 = 8 + i := by omega
  have ha : a.getLsbD (16 + i) = false := BitVec.getLsbD_of_ge _ _ (by omega)
  simp [byteLane, wordOfBytes, h1, h2, h3, h4, hi, e, ha]

@[simp] theorem byteLane_wordOfBytes_3 (a b c d : Byte) : byteLane (wordOfBytes a b c d) 3 = d := by
  ext i hi
  have h1 : ¬ 24 + i < 8 := by omega
  have h2 : ¬ 24 + i < 16 := by omega
  have h3 : ¬ 24 + i < 24 := by omega
  have h4 : 24 + i < 32 := by omega
  have e1 : 24 + i - 8 = 16 + i := by omega
  have e2 : 24 + i - 16 = 8 + i := by omega
  have ha : a.getLsbD (24 + i) = false := BitVec.getLsbD_of_ge _ _ (by omega)
  have hb : b.getLsbD (16 + i) = false := BitVec.getLsbD_of_ge _ _ (by omega)
  simp [byteLane, wordOfBytes, h1, h2, h3, h4, hi, e1, e2, ha, hb]

/-- LE32 puts byte o + k of the sequence in lane k (00_scope R11). -/
theorem le32_eq_wordOfBytes (b : List Byte) (o : Nat) :
    le32 b o = wordOfBytes (byteAt b o) (byteAt b (o + 1)) (byteAt b (o + 2)) (byteAt b (o + 3)) := by
  ext i hi
  have e : i - 16 - 8 = i - 24 := by omega
  by_cases h1 : i < 8
  · simp [le32, le16, wordOfBytes, h1, show i < 16 by omega, show i < 24 by omega]
  by_cases h2 : i < 16
  · simp [le32, le16, wordOfBytes, h1, h2, show i < 24 by omega]
  have ha : (byteAt b o).getLsbD i = false := BitVec.getLsbD_of_ge _ _ (by omega)
  have hb : (byteAt b (o + 1)).getLsbD (i - 8) = false := BitVec.getLsbD_of_ge _ _ (by omega)
  by_cases h3 : i < 24
  · simp [le32, le16, wordOfBytes, h1, h2, h3, ha, hb, show i - 16 < 8 by omega, show i - 16 < 16 by omega]
  have hc : (byteAt b (o + 2)).getLsbD (i - 16) = false := BitVec.getLsbD_of_ge _ _ (by omega)
  simp [le32, le16, wordOfBytes, h1, h2, h3, ha, hb, hc, e, show ¬ i - 16 < 8 by omega, show i - 16 < 16 by omega]

/-- Lane k of the word read from four SRC bytes is byte k of them (42_format_decoder R157). -/
theorem byteLane_le32_readBytes (m : Memory) (a k : Nat) (hk : k < 4) :
    byteLane (le32 (m.readBytes a 4) 0) k = m.read (a + k) := by
  rw [le32_eq_wordOfBytes]
  have h : k = 0 ∨ k = 1 ∨ k = 2 ∨ k = 3 := by omega
  rcases h with rfl | rfl | rfl | rfl <;> simp [byteAt, Memory.readBytes, List.range_succ]

/-- A point of a grid. -/
theorem mem_gridPoints (w h x y : Nat) : (x, y) ∈ gridPoints w h ↔ x < w ∧ y < h := by
  simp only [gridPoints, List.mem_flatMap, List.mem_map, List.mem_range, Prod.mk.injEq]
  constructor
  · rintro ⟨b, hb, a, ha, rfl, rfl⟩; exact ⟨ha, hb⟩
  · rintro ⟨hx, hy⟩; exact ⟨y, hy, x, hx, rfl, rfl⟩

end Sys2Proof.Machine
end

