-- ==== Sys2Proof/Laws/Memory.lean ====
section
/-! SUPPORT. The byte memories: what a write leaves at every address, and that every operation keeps the canonical form. -/

namespace Sys2Proof.Machine

/-- The canonical form, read off the head of the list. -/
theorem Memory.wf_cons (a : Nat) (b : Byte) (m : Memory) :
    Memory.wf ((a, b) :: m) = true ↔
      (∀ c ∈ m, a < c.1) ∧ a < byteSpaceBytes ∧ b ≠ Memory.blank ∧ Memory.wf m = true := by
  simp only [Memory.wf, List.map_cons, List.pairwise_cons, List.mem_map, List.all_cons, Bool.and_eq_true,
    decide_eq_true_eq, bne_iff_ne, ne_eq]
  constructor
  · rintro ⟨⟨h1, h2⟩, ⟨h3, h4⟩, h5⟩
    exact ⟨fun c hc => h1 _ ⟨c, hc, rfl⟩, h3, h4, h2, h5⟩
  · rintro ⟨h1, h2, h3, h4, h5⟩
    exact ⟨⟨by rintro _ ⟨c, hc, rfl⟩; exact h1 c hc, h4⟩, ⟨h2, h3⟩, h5⟩

theorem Memory.wf_nil : Memory.wf [] = true := by decide

/-- An address below every listed one reads blank. -/
theorem Memory.read_below (m : Memory) (k : Nat) (h : ∀ c ∈ m, k < c.1) : Memory.read m k = Memory.blank := by
  induction m with
  | nil => rfl
  | cons c m ih =>
    obtain ⟨a, b⟩ := c
    have hk : k ≠ a := Nat.ne_of_lt (h (a, b) List.mem_cons_self)
    simp only [Memory.read, hk, if_false]
    exact ih (fun c hc => h c (List.mem_cons_of_mem _ hc))

/-- What a byte write leaves at every address. -/
theorem Memory.read_write (m : Memory) (k : Nat) (v : Byte) (j : Nat) (h : m.wf = true) :
    (m.write k v).read j = if j = k then v else m.read j := by
  induction m with
  | nil => by_cases hv : v = Memory.blank <;> by_cases hj : j = k <;> simp [Memory.write, Memory.read, hv, hj]
  | cons c m ih =>
    obtain ⟨a, b⟩ := c
    obtain ⟨hlt, -, -, hm⟩ := (Memory.wf_cons a b m).1 h
    have below : ∀ i, i ≤ a → Memory.read m i = Memory.blank :=
      fun i hi => Memory.read_below m i (fun c hc => Nat.lt_of_le_of_lt hi (hlt c hc))
    simp only [Memory.write]
    split
    · rename_i hka
      split
      · rename_i hv
        by_cases hj : j = k
        · subst hj; simp [Memory.read, Nat.ne_of_lt hka, below j (Nat.le_of_lt hka), hv]
        · simp [hj]
      · by_cases hj : j = k <;> simp [Memory.read, hj]
    · split
      · rename_i hka hk
        subst hk
        split
        · rename_i hv
          by_cases hj : j = k
          · subst hj; simp [below j (Nat.le_refl _), hv]
          · simp [Memory.read, hj]
        · by_cases hj : j = k <;> simp [Memory.read, hj]
      · rename_i hka hk
        by_cases hja : j = a
        · subst hja; have hjk : ¬ j = k := fun e => hk e.symm; simp [Memory.read, hjk]
        · simp [Memory.read, hja, ih hm]

/-- A write lists no address but the one written and those already listed. -/
theorem Memory.mem_write (m : Memory) (k : Nat) (v : Byte) (c : Host.Cell) (h : c ∈ m.write k v) : c.1 = k ∨ c ∈ m := by
  induction m with
  | nil =>
    simp only [Memory.write] at h
    split at h <;> simp_all
  | cons d m ih =>
    obtain ⟨a, b⟩ := d
    simp only [Memory.write] at h
    split at h
    · split at h <;> simp_all
      rcases h with h | h | h <;> simp [h]
    · split at h
      · split at h <;> simp_all
        rcases h with h | h <;> simp [h]
      · rcases List.mem_cons.1 h with h | h
        · simp [h]
        · rcases ih h with h | h <;> simp [h]

/-- A write inside the space keeps the canonical form. -/
theorem Memory.write_wf (m : Memory) (k : Nat) (v : Byte) (h : m.wf = true) (hk : k < byteSpaceBytes) :
    (m.write k v).wf = true := by
  induction m with
  | nil =>
    simp only [Memory.write]
    split
    · exact Memory.wf_nil
    · rename_i hv; exact (Memory.wf_cons k v []).2 ⟨by simp, hk, hv, Memory.wf_nil⟩
  | cons c m ih =>
    obtain ⟨a, b⟩ := c
    obtain ⟨hlt, ha, hb, hm⟩ := (Memory.wf_cons a b m).1 h
    simp only [Memory.write]
    split
    · rename_i hka
      split
      · exact h
      · rename_i hv
        refine (Memory.wf_cons k v _).2 ⟨fun c hc => ?_, hk, hv, h⟩
        rcases List.mem_cons.1 hc with rfl | hc
        · exact hka
        · exact Nat.lt_trans hka (hlt c hc)
    · split
      · rename_i hk'
        subst hk'
        split
        · exact hm
        · rename_i hv; exact (Memory.wf_cons k v m).2 ⟨hlt, ha, hv, hm⟩
      · rename_i hka hne
        refine (Memory.wf_cons a b _).2 ⟨fun c hc => ?_, ha, hb, ih hm⟩
        rcases Memory.mem_write m k v c hc with h | h
        · omega
        · exact hlt c h

@[simp] theorem Memory.writeCells_nil (m : Memory) : m.writeCells [] = m := rfl
@[simp] theorem Memory.writeCells_cons (m : Memory) (c : Host.Cell) (l : List Host.Cell) :
    m.writeCells (c :: l) = (m.write c.1 c.2).writeCells l := rfl
@[simp] theorem Memory.writeCells_append (m : Memory) (l₁ l₂ : List Host.Cell) :
    m.writeCells (l₁ ++ l₂) = (m.writeCells l₁).writeCells l₂ := by
  simp [Memory.writeCells]

/-- Writes inside the space keep the canonical form. -/
theorem Memory.writeCells_wf (l : List Host.Cell) (m : Memory) (h : m.wf = true) (hl : ∀ c ∈ l, c.1 < byteSpaceBytes) :
    (m.writeCells l).wf = true := by
  induction l generalizing m with
  | nil => exact h
  | cons c l ih =>
    exact ih _ (Memory.write_wf m c.1 c.2 h (hl c List.mem_cons_self)) (fun d hd => hl d (List.mem_cons_of_mem _ hd))

/-- An address no cell names keeps its byte. -/
theorem Memory.read_writeCells_other (l : List Host.Cell) (m : Memory) (h : m.wf = true)
    (hl : ∀ c ∈ l, c.1 < byteSpaceBytes) (k : Nat) (hk : ∀ c ∈ l, c.1 ≠ k) : (m.writeCells l).read k = m.read k := by
  induction l generalizing m with
  | nil => rfl
  | cons c l ih =>
    have hc := hl c List.mem_cons_self
    rw [Memory.writeCells_cons, ih _ (Memory.write_wf m c.1 c.2 h hc) (fun d hd => hl d (List.mem_cons_of_mem _ hd))
      (fun d hd => hk d (List.mem_cons_of_mem _ hd)), Memory.read_write m c.1 c.2 k h,
      if_neg (fun e => hk c List.mem_cons_self e.symm)]

/-- Among cells with different addresses, each address written holds its cell's byte. -/
theorem Memory.read_writeCells_mem (l : List Host.Cell) (m : Memory) (h : m.wf = true)
    (hl : ∀ c ∈ l, c.1 < byteSpaceBytes) (nd : l.Pairwise (fun c d => c.1 ≠ d.1)) (c : Host.Cell) (hc : c ∈ l) :
    (m.writeCells l).read c.1 = c.2 := by
  induction l generalizing m with
  | nil => simp at hc
  | cons d l ih =>
    obtain ⟨hd, hnd⟩ := List.pairwise_cons.1 nd
    have hdw := Memory.write_wf m d.1 d.2 h (hl d List.mem_cons_self)
    have hl' : ∀ e ∈ l, e.1 < byteSpaceBytes := fun e he => hl e (List.mem_cons_of_mem _ he)
    rcases List.mem_cons.1 hc with rfl | hc
    · rw [Memory.writeCells_cons, Memory.read_writeCells_other l _ hdw hl' c.1 (fun e he => (hd e he).symm),
        Memory.read_write m c.1 c.2 c.1 h, if_pos rfl]
    · exact ih _ hdw hl' hnd hc

/-- An address some cell names holds the byte of a cell that names it, whether or not the addresses differ. -/
theorem Memory.read_writeCells_some (l : List Host.Cell) (m : Memory) (h : m.wf = true)
    (hl : ∀ c ∈ l, c.1 < byteSpaceBytes) (k : Nat) (hk : ∃ c ∈ l, c.1 = k) :
    ∃ c ∈ l, c.1 = k ∧ (m.writeCells l).read k = c.2 := by
  induction l generalizing m with
  | nil => simp at hk
  | cons d l ih =>
    have hw := Memory.write_wf m d.1 d.2 h (hl d List.mem_cons_self)
    have hl' : ∀ c ∈ l, c.1 < byteSpaceBytes := fun c hc => hl c (List.mem_cons_of_mem _ hc)
    by_cases hk' : ∃ c ∈ l, c.1 = k
    · obtain ⟨c, hc, e, hr⟩ := ih _ hw hl' hk'
      exact ⟨c, List.mem_cons_of_mem _ hc, e, hr⟩
    · obtain ⟨c, hc, e⟩ := hk
      rcases List.mem_cons.1 hc with rfl | hc
      · refine ⟨c, List.mem_cons_self, e, ?_⟩
        rw [Memory.writeCells_cons, Memory.read_writeCells_other l _ hw hl' k (fun d hd e => hk' ⟨d, hd, e⟩),
          Memory.read_write m c.1 c.2 k h, if_pos e.symm]
      · exact absurd ⟨c, hc, e⟩ hk'

/-- Byte k of a MemRead. -/
theorem Memory.readBytes_getD (m : Memory) (addr n k : Nat) (hk : k < n) :
    (m.readBytes addr n).getD k 0 = m.read (addr + k) := by
  simp [Memory.readBytes, hk]

end Sys2Proof.Machine
end

