-- ==== Sys2Proof/Laws/PerInstr.lean ====
section
/-! SUPPORT. The per-instruction family LegalWord: each command's word (30_encoding R87) falls under none of the three cases of an illegal word (R83), and only DTEX.CO's has M = 1 (R78). -/

namespace Sys2Proof.Laws.LegalWord

/-- The word of a command is legal by 30_encoding R83, field by field, and M is 1 in it only for DTEX.CO. -/
def Statement (i : Instr) : Prop :=
  resField (encode i) = 0 ∧ (opField (encode i)).toNat < 0x0D ∧
    (mField (encode i) = true ↔ i = .dtexCo) ∧ (mField (encode i) = true → opField (encode i) = 0x07)

theorem nop : Statement .nop := by unfold Statement; decide
theorem mapu : Statement .mapu := by unfold Statement; decide
theorem mapc : Statement .mapc := by unfold Statement; decide
theorem exp565 : Statement .exp565 := by unfold Statement; decide
theorem dcol : Statement .dcol := by unfold Statement; decide
theorem dalpha : Statement .dalpha := by unfold Statement; decide
theorem dblk : Statement .dblk := by unfold Statement; decide
theorem dtex : Statement .dtex := by unfold Statement; decide
theorem dtexCo : Statement .dtexCo := by unfold Statement; decide
theorem pack : Statement .pack := by unfold Statement; decide
theorem bswap32 : Statement .bswap32 := by unfold Statement; decide
theorem bswap16 : Statement .bswap16 := by unfold Statement; decide
theorem issup : Statement .issup := by unfold Statement; decide
theorem decode : Statement .decode := by unfold Statement; decide

end Sys2Proof.Laws.LegalWord
end

