-- ==== Sys2Proof/Laws/Raster.lean ====
section
/-! SUPPORT. Where a DECODE writes: its cells lie in the output region and no two of them name one address (42_format_decoder R151, R161). -/

namespace Sys2Proof.Machine

/-- A pixel of the raster lies before its end. -/
theorem pixel_lt (w h x y : Nat) (hx : x < w) (hy : y < h) : y * w + x < w * h := by
  have h1 : (y + 1) * w ≤ h * w := Nat.mul_le_mul_right w hy
  have h2 : (y + 1) * w = y * w + w := Nat.succ_mul y w
  have h3 : h * w = w * h := Nat.mul_comm h w
  omega

/-- Different pixels have different places in the raster. -/
theorem pixel_inj (w x y x' y' : Nat) (hx : x < w) (hx' : x' < w) (h : y * w + x = y' * w + x') : x = x' ∧ y = y' := by
  have hw : 0 < w := by omega
  have e : ∀ a b, b < w → (a * w + b) % w = b ∧ (a * w + b) / w = a := by
    intro a b hb
    rw [Nat.mul_comm a w]
    exact ⟨by rw [Nat.mul_add_mod, Nat.mod_eq_of_lt hb], by rw [Nat.mul_add_div hw, Nat.div_eq_of_lt hb, Nat.add_zero]⟩
  have h1 := e y x hx
  have h2 := e y' x' hx'
  rw [h] at h1
  exact ⟨h1.1.symm.trans h2.1, h1.2.symm.trans h2.2⟩

/-- A grid names each of its points once. -/
theorem gridPoints_nodup (w h : Nat) : (gridPoints w h).Pairwise (· ≠ ·) := by
  refine List.pairwise_flatMap.2 ⟨fun y _ => ?_, ?_⟩
  · refine List.pairwise_map.2 (List.Pairwise.imp ?_ (List.nodup_range (n := w)))
    intro a b hab he; exact hab (Prod.mk.inj he).1
  · refine List.Pairwise.imp ?_ (List.nodup_range (n := h))
    intro a b hab p hp q hq he
    obtain ⟨_, _, rfl⟩ := List.mem_map.1 hp
    obtain ⟨_, _, rfl⟩ := List.mem_map.1 hq
    exact hab (Prod.mk.inj he).2

/-- A grid cut at one of its points: what comes before the point in raster order, the point, the rest. -/
theorem gridPoints_split (w h x y : Nat) (hx : x < w) (hy : y < h) :
    ∃ r, gridPoints w h =
      (List.range y).flatMap (fun y' => (List.range w).map (fun x' => (x', y')))
        ++ (List.range x).map (fun x' => (x', y)) ++ (x, y) :: r := by
  have cut : ∀ n k, k < n → ∃ r, List.range n = List.range k ++ k :: r := by
    intro n k hk
    refine ⟨(List.range (n - k - 1)).map (fun i => k + 1 + i), ?_⟩
    have e : List.range n = List.range (k + 1 + (n - k - 1)) := congrArg List.range (by omega)
    rw [e, List.range_add, List.range_succ]
    simp
  obtain ⟨r₁, e₁⟩ := cut h y hy
  obtain ⟨r₂, e₂⟩ := cut w x hx
  refine ⟨r₂.map (fun x' => (x', y)) ++ r₁.flatMap (fun y' => (List.range w).map (fun x' => (x', y'))), ?_⟩
  have e₃ : (List.range w).map (fun x' => (x', y))
      = (List.range x).map (fun x' => (x', y)) ++ (x, y) :: r₂.map (fun x' => (x', y)) := by
    rw [e₂, List.map_append, List.map_cons]
  unfold gridPoints
  rw [e₁, List.flatMap_append, List.flatMap_cons, e₃]
  simp only [List.append_assoc, List.cons_append]

/-- A pixel's cells are its four bytes. -/
theorem mem_pixelCells (a : Nat) (v : Word) (c : Host.Cell) :
    c ∈ pixelCells a v ↔ ∃ k, k < 4 ∧ c = (a + k, byteLane v k) := by
  simp only [pixelCells, List.mem_cons, List.not_mem_nil, or_false]
  constructor
  · rintro (rfl | rfl | rfl | rfl)
    · exact ⟨0, by omega, rfl⟩
    · exact ⟨1, by omega, rfl⟩
    · exact ⟨2, by omega, rfl⟩
    · exact ⟨3, by omega, rfl⟩
  · rintro ⟨k, hk, rfl⟩
    have : k = 0 ∨ k = 1 ∨ k = 2 ∨ k = 3 := by omega
    rcases this with rfl | rfl | rfl | rfl <;> simp

theorem pixelCells_distinct (a : Nat) (v : Word) : (pixelCells a v).Pairwise (fun c d => c.1 ≠ d.1) := by
  simp [pixelCells]

/-- The cells an uncompressed pixel gives (42_format_decoder R157). -/
theorem mem_destCells_unc (p : Params) (src : Memory) (w : Nat) (d : Nat × Nat) (c : Host.Cell) :
    c ∈ Format.unc.destCells p src w d ↔ ∃ k, k < 4 ∧ c = (4 * (d.2 * w + d.1) + k,
      byteLane (packFn p.packPerm (le32 (src.readBytes (Format.unc.srcOffset p w d) 4) 0)) k) := by
  simp only [Format.destCells, Format.unitBytes, mem_pixelCells, pixelAddr]

/-- The cells a block gives (42_format_decoder R160). -/
theorem mem_destCells_bc (p : Params) (src : Memory) (w : Nat) (d : Nat × Nat) (c : Host.Cell) :
    c ∈ Format.bc.destCells p src w d ↔ ∃ i j k, i < 4 ∧ j < 4 ∧ k < 4 ∧
      c = (4 * ((4 * d.2 + j) * w + (4 * d.1 + i)) + k,
        byteLane (texelRgba (src.readBytes (Format.bc.srcOffset p w d) 16) i j) k) := by
  simp only [Format.destCells, Format.unitBytes, List.mem_flatMap, mem_pixelCells, pixelAddr]
  constructor
  · rintro ⟨⟨i, j⟩, hij, k, hk, rfl⟩
    obtain ⟨hi, hj⟩ := (mem_gridPoints 4 4 i j).1 hij
    exact ⟨i, j, k, hi, hj, hk, rfl⟩
  · rintro ⟨i, j, k, hi, hj, hk, rfl⟩
    exact ⟨(i, j), (mem_gridPoints 4 4 i j).2 ⟨hi, hj⟩, k, hk, rfl⟩

/-- A DECODE's cells, destination by destination. -/
theorem mem_rasterCells (f : Format) (p : Params) (src : Memory) (w h : Nat) (c : Host.Cell) :
    c ∈ f.rasterCells p src w h ↔ ∃ x y, (x, y) ∈ f.grid w h ∧ c ∈ f.destCells p src w (x, y) := by
  simp only [Format.rasterCells, List.mem_flatMap, Prod.exists]

/-- The pixel a cell belongs to. -/
theorem rasterCells_pixel (f : Format) (p : Params) (src : Memory) (w h : Nat) (c : Host.Cell)
    (hc : c ∈ f.rasterCells p src w h) : ∃ x y k, x < w ∧ y < h ∧ k < 4 ∧ c.1 = 4 * (y * w + x) + k := by
  obtain ⟨x, y, hg, hd⟩ := (mem_rasterCells f p src w h c).1 hc
  cases f with
  | unc =>
    obtain ⟨k, hk, rfl⟩ := (mem_destCells_unc p src w (x, y) c).1 hd
    obtain ⟨hx, hy⟩ := (mem_gridPoints w h x y).1 hg
    exact ⟨x, y, k, hx, hy, hk, rfl⟩
  | bc =>
    obtain ⟨i, j, k, hi, hj, hk, rfl⟩ := (mem_destCells_bc p src w (x, y) c).1 hd
    obtain ⟨hx, hy⟩ := (mem_gridPoints (w / 4) (h / 4) x y).1 hg
    exact ⟨4 * x + i, 4 * y + j, k, by omega, by omega, hk, rfl⟩

/-- Every cell lies below `dst_req` (42_format_decoder R151). -/
theorem rasterCells_lt (f : Format) (p : Params) (src : Memory) (w h : Nat) (c : Host.Cell)
    (hc : c ∈ f.rasterCells p src w h) : c.1 < dstReq w h := by
  obtain ⟨x, y, k, hx, hy, hk, e⟩ := rasterCells_pixel f p src w h c hc
  have h1 := pixel_lt w h x y hx hy
  have h2 : dstReq w h = 4 * (w * h) := Nat.mul_assoc 4 w h
  omega

/-- No two cells name one address: each pixel is written at most once (42_format_decoder R161). -/
theorem rasterCells_distinct (f : Format) (p : Params) (src : Memory) (w h : Nat) :
    (f.rasterCells p src w h).Pairwise (fun c d => c.1 ≠ d.1) := by
  have key : ∀ x y k x' y' k', x < w → x' < w → k < 4 → k' < 4 →
      4 * (y * w + x) + k = 4 * (y' * w + x') + k' → x = x' ∧ y = y' := by
    intro x y k x' y' k' hx hx' hk hk' he
    exact pixel_inj w x y x' y' hx hx' (by omega)
  cases f with
  | unc =>
    refine List.pairwise_flatMap.2 ⟨fun d _ => pixelCells_distinct _ _, ?_⟩
    refine List.Pairwise.imp_of_mem ?_ (gridPoints_nodup w h)
    rintro ⟨x, y⟩ ⟨x', y'⟩ hd hd' hne c hc c' hc' he
    obtain ⟨k, hk, rfl⟩ := (mem_destCells_unc p src w (x, y) c).1 hc
    obtain ⟨k', hk', rfl⟩ := (mem_destCells_unc p src w (x', y') c').1 hc'
    obtain ⟨rfl, rfl⟩ := key x y k x' y' k' ((mem_gridPoints w h x y).1 hd).1 ((mem_gridPoints w h x' y').1 hd').1 hk hk' he
    exact hne rfl
  | bc =>
    refine List.pairwise_flatMap.2 ⟨?_, ?_⟩
    · rintro ⟨x, y⟩ hd
      have hx := ((mem_gridPoints (w / 4) (h / 4) x y).1 hd).1
      refine List.pairwise_flatMap.2 ⟨fun t _ => pixelCells_distinct _ _, ?_⟩
      refine List.Pairwise.imp_of_mem ?_ (gridPoints_nodup 4 4)
      rintro ⟨i, j⟩ ⟨i', j'⟩ ht ht' hne c hc c' hc' he
      obtain ⟨k, hk, rfl⟩ := (mem_pixelCells _ _ c).1 hc
      obtain ⟨k', hk', rfl⟩ := (mem_pixelCells _ _ c').1 hc'
      obtain ⟨hi, hj⟩ := (mem_gridPoints 4 4 i j).1 ht
      obtain ⟨hi', hj'⟩ := (mem_gridPoints 4 4 i' j').1 ht'
      obtain ⟨e1, e2⟩ := key (4 * x + i) (4 * y + j) k (4 * x + i') (4 * y + j') k' (by omega) (by omega) hk hk' he
      exact hne (by rw [show i = i' by omega, show j = j' by omega])
    · refine List.Pairwise.imp_of_mem ?_ (gridPoints_nodup (w / 4) (h / 4))
      rintro ⟨x, y⟩ ⟨x', y'⟩ hd hd' hne c hc c' hc' he
      obtain ⟨i, j, k, hi, hj, hk, rfl⟩ := (mem_destCells_bc p src w (x, y) c).1 hc
      obtain ⟨i', j', k', hi', hj', hk', rfl⟩ := (mem_destCells_bc p src w (x', y') c').1 hc'
      have hx := ((mem_gridPoints (w / 4) (h / 4) x y).1 hd).1
      have hx' := ((mem_gridPoints (w / 4) (h / 4) x' y').1 hd').1
      obtain ⟨e1, e2⟩ := key (4 * x + i) (4 * y + j) k (4 * x' + i') (4 * y' + j') k' (by omega) (by omega) hk hk' he
      exact hne (by rw [show x = x' by omega, show y = y' by omega])

end Sys2Proof.Machine
end

