-- ==== Sys2Proof/Laws/State.lean ====
section
/-! SUPPORT. What every named update of State leaves in every field, each true by rfl, so that no later proof unfolds a record update. -/

namespace Sys2Proof.Machine

variable (s : State)

/-! ### finish -/

@[simp] theorem State.finish_regs : s.finish.regs = s.regs := rfl
@[simp] theorem State.finish_result : s.finish.result = s.result := rfl
@[simp] theorem State.finish_errInfo0 : s.finish.errInfo0 = s.errInfo0 := rfl
@[simp] theorem State.finish_errInfo1 : s.finish.errInfo1 = s.errInfo1 := rfl
@[simp] theorem State.finish_tex : s.finish.tex = s.tex := rfl
@[simp] theorem State.finish_pending : s.finish.pending = false := rfl
@[simp] theorem State.finish_done : s.finish.done = true := rfl
@[simp] theorem State.finish_err : s.finish.err = s.err := rfl
@[simp] theorem State.finish_errCode : s.finish.errCode = s.errCode := rfl
@[simp] theorem State.finish_latch : s.finish.latch = s.latch := rfl
@[simp] theorem State.finish_src : s.finish.src = s.src := rfl
@[simp] theorem State.finish_dst : s.finish.dst = s.dst := rfl
@[simp] theorem State.finish_params : s.finish.params = s.params := rfl
@[simp] theorem State.finish_script : s.finish.script = s.script := rfl
@[simp] theorem State.finish_observed : s.finish.observed = s.observed := rfl
@[simp] theorem State.finish_delay : s.finish.delay = s.delay := rfl
@[simp] theorem State.finish_draws : s.finish.draws = s.draws := rfl
@[simp] theorem State.finish_srcDisturbed : s.finish.srcDisturbed = s.srcDisturbed := rfl
@[simp] theorem State.finish_dstDisturbed : s.finish.dstDisturbed = s.dstDisturbed := rfl
@[simp] theorem State.finish_hostRule : s.finish.hostRule = s.hostRule := rfl

/-! ### finishResult -/

@[simp] theorem State.finishResult_regs (v : Word) : (s.finishResult v).regs = s.regs := rfl
@[simp] theorem State.finishResult_result (v : Word) : (s.finishResult v).result = v := rfl
@[simp] theorem State.finishResult_errInfo0 (v : Word) : (s.finishResult v).errInfo0 = s.errInfo0 := rfl
@[simp] theorem State.finishResult_errInfo1 (v : Word) : (s.finishResult v).errInfo1 = s.errInfo1 := rfl
@[simp] theorem State.finishResult_tex (v : Word) : (s.finishResult v).tex = s.tex := rfl
@[simp] theorem State.finishResult_pending (v : Word) : (s.finishResult v).pending = false := rfl
@[simp] theorem State.finishResult_done (v : Word) : (s.finishResult v).done = true := rfl
@[simp] theorem State.finishResult_err (v : Word) : (s.finishResult v).err = s.err := rfl
@[simp] theorem State.finishResult_errCode (v : Word) : (s.finishResult v).errCode = s.errCode := rfl
@[simp] theorem State.finishResult_latch (v : Word) : (s.finishResult v).latch = s.latch := rfl
@[simp] theorem State.finishResult_src (v : Word) : (s.finishResult v).src = s.src := rfl
@[simp] theorem State.finishResult_dst (v : Word) : (s.finishResult v).dst = s.dst := rfl
@[simp] theorem State.finishResult_params (v : Word) : (s.finishResult v).params = s.params := rfl
@[simp] theorem State.finishResult_script (v : Word) : (s.finishResult v).script = s.script := rfl
@[simp] theorem State.finishResult_observed (v : Word) : (s.finishResult v).observed = s.observed := rfl
@[simp] theorem State.finishResult_delay (v : Word) : (s.finishResult v).delay = s.delay := rfl
@[simp] theorem State.finishResult_draws (v : Word) : (s.finishResult v).draws = s.draws := rfl
@[simp] theorem State.finishResult_srcDisturbed (v : Word) : (s.finishResult v).srcDisturbed = s.srcDisturbed := rfl
@[simp] theorem State.finishResult_dstDisturbed (v : Word) : (s.finishResult v).dstDisturbed = s.dstDisturbed := rfl
@[simp] theorem State.finishResult_hostRule (v : Word) : (s.finishResult v).hostRule = s.hostRule := rfl

/-! ### finishTex -/

@[simp] theorem State.finishTex_regs (t : Vector Word 16) : (s.finishTex t).regs = s.regs := rfl
@[simp] theorem State.finishTex_result (t : Vector Word 16) : (s.finishTex t).result = s.result := rfl
@[simp] theorem State.finishTex_errInfo0 (t : Vector Word 16) : (s.finishTex t).errInfo0 = s.errInfo0 := rfl
@[simp] theorem State.finishTex_errInfo1 (t : Vector Word 16) : (s.finishTex t).errInfo1 = s.errInfo1 := rfl
@[simp] theorem State.finishTex_tex (t : Vector Word 16) : (s.finishTex t).tex = t := rfl
@[simp] theorem State.finishTex_pending (t : Vector Word 16) : (s.finishTex t).pending = false := rfl
@[simp] theorem State.finishTex_done (t : Vector Word 16) : (s.finishTex t).done = true := rfl
@[simp] theorem State.finishTex_err (t : Vector Word 16) : (s.finishTex t).err = s.err := rfl
@[simp] theorem State.finishTex_errCode (t : Vector Word 16) : (s.finishTex t).errCode = s.errCode := rfl
@[simp] theorem State.finishTex_latch (t : Vector Word 16) : (s.finishTex t).latch = s.latch := rfl
@[simp] theorem State.finishTex_src (t : Vector Word 16) : (s.finishTex t).src = s.src := rfl
@[simp] theorem State.finishTex_dst (t : Vector Word 16) : (s.finishTex t).dst = s.dst := rfl
@[simp] theorem State.finishTex_params (t : Vector Word 16) : (s.finishTex t).params = s.params := rfl
@[simp] theorem State.finishTex_script (t : Vector Word 16) : (s.finishTex t).script = s.script := rfl
@[simp] theorem State.finishTex_observed (t : Vector Word 16) : (s.finishTex t).observed = s.observed := rfl
@[simp] theorem State.finishTex_delay (t : Vector Word 16) : (s.finishTex t).delay = s.delay := rfl
@[simp] theorem State.finishTex_draws (t : Vector Word 16) : (s.finishTex t).draws = s.draws := rfl
@[simp] theorem State.finishTex_srcDisturbed (t : Vector Word 16) : (s.finishTex t).srcDisturbed = s.srcDisturbed := rfl
@[simp] theorem State.finishTex_dstDisturbed (t : Vector Word 16) : (s.finishTex t).dstDisturbed = s.dstDisturbed := rfl
@[simp] theorem State.finishTex_hostRule (t : Vector Word 16) : (s.finishTex t).hostRule = s.hostRule := rfl

/-! ### raiseError -/

@[simp] theorem State.raiseError_regs (c : ErrCode) (n : BitVec 64) : (s.raiseError c n).regs = s.regs := rfl
@[simp] theorem State.raiseError_result (c : ErrCode) (n : BitVec 64) : (s.raiseError c n).result = s.result := rfl
@[simp] theorem State.raiseError_errInfo0 (c : ErrCode) (n : BitVec 64) : (s.raiseError c n).errInfo0 = n.extractLsb' 0 32 := rfl
@[simp] theorem State.raiseError_errInfo1 (c : ErrCode) (n : BitVec 64) : (s.raiseError c n).errInfo1 = n.extractLsb' 32 32 := rfl
@[simp] theorem State.raiseError_tex (c : ErrCode) (n : BitVec 64) : (s.raiseError c n).tex = s.tex := rfl
@[simp] theorem State.raiseError_pending (c : ErrCode) (n : BitVec 64) : (s.raiseError c n).pending = false := rfl
@[simp] theorem State.raiseError_done (c : ErrCode) (n : BitVec 64) : (s.raiseError c n).done = true := rfl
@[simp] theorem State.raiseError_err (c : ErrCode) (n : BitVec 64) : (s.raiseError c n).err = true := rfl
@[simp] theorem State.raiseError_errCode (c : ErrCode) (n : BitVec 64) : (s.raiseError c n).errCode = c := rfl
@[simp] theorem State.raiseError_latch (c : ErrCode) (n : BitVec 64) : (s.raiseError c n).latch = s.latch := rfl
@[simp] theorem State.raiseError_src (c : ErrCode) (n : BitVec 64) : (s.raiseError c n).src = s.src := rfl
@[simp] theorem State.raiseError_dst (c : ErrCode) (n : BitVec 64) : (s.raiseError c n).dst = s.dst := rfl
@[simp] theorem State.raiseError_params (c : ErrCode) (n : BitVec 64) : (s.raiseError c n).params = s.params := rfl
@[simp] theorem State.raiseError_script (c : ErrCode) (n : BitVec 64) : (s.raiseError c n).script = s.script := rfl
@[simp] theorem State.raiseError_observed (c : ErrCode) (n : BitVec 64) : (s.raiseError c n).observed = s.observed := rfl
@[simp] theorem State.raiseError_delay (c : ErrCode) (n : BitVec 64) : (s.raiseError c n).delay = s.delay := rfl
@[simp] theorem State.raiseError_draws (c : ErrCode) (n : BitVec 64) : (s.raiseError c n).draws = s.draws := rfl
@[simp] theorem State.raiseError_srcDisturbed (c : ErrCode) (n : BitVec 64) : (s.raiseError c n).srcDisturbed = s.srcDisturbed := rfl
@[simp] theorem State.raiseError_dstDisturbed (c : ErrCode) (n : BitVec 64) : (s.raiseError c n).dstDisturbed = s.dstDisturbed := rfl
@[simp] theorem State.raiseError_hostRule (c : ErrCode) (n : BitVec 64) : (s.raiseError c n).hostRule = s.hostRule := rfl

/-! ### issueWith -/

@[simp] theorem State.issueWith_regs (w : Word) (n : Nat) : (s.issueWith w n).regs = s.regs := rfl
@[simp] theorem State.issueWith_result (w : Word) (n : Nat) : (s.issueWith w n).result = s.result := rfl
@[simp] theorem State.issueWith_errInfo0 (w : Word) (n : Nat) : (s.issueWith w n).errInfo0 = 0 := rfl
@[simp] theorem State.issueWith_errInfo1 (w : Word) (n : Nat) : (s.issueWith w n).errInfo1 = 0 := rfl
@[simp] theorem State.issueWith_tex (w : Word) (n : Nat) : (s.issueWith w n).tex = s.tex := rfl
@[simp] theorem State.issueWith_pending (w : Word) (n : Nat) : (s.issueWith w n).pending = true := rfl
@[simp] theorem State.issueWith_done (w : Word) (n : Nat) : (s.issueWith w n).done = false := rfl
@[simp] theorem State.issueWith_err (w : Word) (n : Nat) : (s.issueWith w n).err = false := rfl
@[simp] theorem State.issueWith_errCode (w : Word) (n : Nat) : (s.issueWith w n).errCode = .none := rfl
@[simp] theorem State.issueWith_latch (w : Word) (n : Nat) : (s.issueWith w n).latch = ⟨w, s.regs⟩ := rfl
@[simp] theorem State.issueWith_src (w : Word) (n : Nat) : (s.issueWith w n).src = s.src := rfl
@[simp] theorem State.issueWith_dst (w : Word) (n : Nat) : (s.issueWith w n).dst = s.dst := rfl
@[simp] theorem State.issueWith_params (w : Word) (n : Nat) : (s.issueWith w n).params = s.params := rfl
@[simp] theorem State.issueWith_script (w : Word) (n : Nat) : (s.issueWith w n).script = s.script := rfl
@[simp] theorem State.issueWith_observed (w : Word) (n : Nat) : (s.issueWith w n).observed = s.observed := rfl
@[simp] theorem State.issueWith_delay (w : Word) (n : Nat) : (s.issueWith w n).delay = n := rfl
@[simp] theorem State.issueWith_draws (w : Word) (n : Nat) : (s.issueWith w n).draws = s.draws := rfl
@[simp] theorem State.issueWith_srcDisturbed (w : Word) (n : Nat) : (s.issueWith w n).srcDisturbed = false := rfl
@[simp] theorem State.issueWith_dstDisturbed (w : Word) (n : Nat) : (s.issueWith w n).dstDisturbed = [] := rfl
@[simp] theorem State.issueWith_hostRule (w : Word) (n : Nat) : (s.issueWith w n).hostRule = s.hostRule := rfl

/-! ### issue -/

@[simp] theorem State.issue_regs (w : Word) : (s.issue w).regs = s.regs := rfl
@[simp] theorem State.issue_result (w : Word) : (s.issue w).result = s.result := rfl
@[simp] theorem State.issue_errInfo0 (w : Word) : (s.issue w).errInfo0 = 0 := rfl
@[simp] theorem State.issue_errInfo1 (w : Word) : (s.issue w).errInfo1 = 0 := rfl
@[simp] theorem State.issue_tex (w : Word) : (s.issue w).tex = s.tex := rfl
@[simp] theorem State.issue_pending (w : Word) : (s.issue w).pending = true := rfl
@[simp] theorem State.issue_done (w : Word) : (s.issue w).done = false := rfl
@[simp] theorem State.issue_err (w : Word) : (s.issue w).err = false := rfl
@[simp] theorem State.issue_errCode (w : Word) : (s.issue w).errCode = .none := rfl
@[simp] theorem State.issue_latch (w : Word) : (s.issue w).latch = ⟨w, s.regs⟩ := rfl
@[simp] theorem State.issue_src (w : Word) : (s.issue w).src = s.src := rfl
@[simp] theorem State.issue_dst (w : Word) : (s.issue w).dst = s.dst := rfl
@[simp] theorem State.issue_params (w : Word) : (s.issue w).params = s.params := rfl
@[simp] theorem State.issue_script (w : Word) : (s.issue w).script = s.script := rfl
@[simp] theorem State.issue_observed (w : Word) : (s.issue w).observed = s.observed := rfl
@[simp] theorem State.issue_delay (w : Word) : (s.issue w).delay = Config.performDelay s.draws := rfl
@[simp] theorem State.issue_draws (w : Word) : (s.issue w).draws = s.draws + 1 := rfl
@[simp] theorem State.issue_srcDisturbed (w : Word) : (s.issue w).srcDisturbed = false := rfl
@[simp] theorem State.issue_dstDisturbed (w : Word) : (s.issue w).dstDisturbed = [] := rfl
@[simp] theorem State.issue_hostRule (w : Word) : (s.issue w).hostRule = s.hostRule := rfl

/-! ### havocDst -/

@[simp] theorem State.havocDst_regs (l : List Nat) : (s.havocDst l).regs = s.regs := rfl
@[simp] theorem State.havocDst_result (l : List Nat) : (s.havocDst l).result = s.result := rfl
@[simp] theorem State.havocDst_errInfo0 (l : List Nat) : (s.havocDst l).errInfo0 = s.errInfo0 := rfl
@[simp] theorem State.havocDst_errInfo1 (l : List Nat) : (s.havocDst l).errInfo1 = s.errInfo1 := rfl
@[simp] theorem State.havocDst_tex (l : List Nat) : (s.havocDst l).tex = s.tex := rfl
@[simp] theorem State.havocDst_pending (l : List Nat) : (s.havocDst l).pending = s.pending := rfl
@[simp] theorem State.havocDst_done (l : List Nat) : (s.havocDst l).done = s.done := rfl
@[simp] theorem State.havocDst_err (l : List Nat) : (s.havocDst l).err = s.err := rfl
@[simp] theorem State.havocDst_errCode (l : List Nat) : (s.havocDst l).errCode = s.errCode := rfl
@[simp] theorem State.havocDst_latch (l : List Nat) : (s.havocDst l).latch = s.latch := rfl
@[simp] theorem State.havocDst_src (l : List Nat) : (s.havocDst l).src = s.src := rfl
@[simp] theorem State.havocDst_dst (l : List Nat) : (s.havocDst l).dst = s.dst.writeCells (l.zipIdx.map (fun ai => (ai.1, Config.freeByte (s.draws + ai.2)))) := rfl
@[simp] theorem State.havocDst_params (l : List Nat) : (s.havocDst l).params = s.params := rfl
@[simp] theorem State.havocDst_script (l : List Nat) : (s.havocDst l).script = s.script := rfl
@[simp] theorem State.havocDst_observed (l : List Nat) : (s.havocDst l).observed = s.observed := rfl
@[simp] theorem State.havocDst_delay (l : List Nat) : (s.havocDst l).delay = s.delay := rfl
@[simp] theorem State.havocDst_draws (l : List Nat) : (s.havocDst l).draws = s.draws + l.length := rfl
@[simp] theorem State.havocDst_srcDisturbed (l : List Nat) : (s.havocDst l).srcDisturbed = s.srcDisturbed := rfl
@[simp] theorem State.havocDst_dstDisturbed (l : List Nat) : (s.havocDst l).dstDisturbed = s.dstDisturbed := rfl
@[simp] theorem State.havocDst_hostRule (l : List Nat) : (s.havocDst l).hostRule = s.hostRule := rfl

/-! ### observe -/

@[simp] theorem State.observe_regs (o : Observation) : (s.observe o).regs = s.regs := rfl
@[simp] theorem State.observe_result (o : Observation) : (s.observe o).result = s.result := rfl
@[simp] theorem State.observe_errInfo0 (o : Observation) : (s.observe o).errInfo0 = s.errInfo0 := rfl
@[simp] theorem State.observe_errInfo1 (o : Observation) : (s.observe o).errInfo1 = s.errInfo1 := rfl
@[simp] theorem State.observe_tex (o : Observation) : (s.observe o).tex = s.tex := rfl
@[simp] theorem State.observe_pending (o : Observation) : (s.observe o).pending = s.pending := rfl
@[simp] theorem State.observe_done (o : Observation) : (s.observe o).done = s.done := rfl
@[simp] theorem State.observe_err (o : Observation) : (s.observe o).err = s.err := rfl
@[simp] theorem State.observe_errCode (o : Observation) : (s.observe o).errCode = s.errCode := rfl
@[simp] theorem State.observe_latch (o : Observation) : (s.observe o).latch = s.latch := rfl
@[simp] theorem State.observe_src (o : Observation) : (s.observe o).src = s.src := rfl
@[simp] theorem State.observe_dst (o : Observation) : (s.observe o).dst = s.dst := rfl
@[simp] theorem State.observe_params (o : Observation) : (s.observe o).params = s.params := rfl
@[simp] theorem State.observe_script (o : Observation) : (s.observe o).script = s.script := rfl
@[simp] theorem State.observe_observed (o : Observation) : (s.observe o).observed = s.observed ++ [o] := rfl
@[simp] theorem State.observe_delay (o : Observation) : (s.observe o).delay = s.delay := rfl
@[simp] theorem State.observe_draws (o : Observation) : (s.observe o).draws = s.draws := rfl
@[simp] theorem State.observe_srcDisturbed (o : Observation) : (s.observe o).srcDisturbed = s.srcDisturbed := rfl
@[simp] theorem State.observe_dstDisturbed (o : Observation) : (s.observe o).dstDisturbed = s.dstDisturbed := rfl
@[simp] theorem State.observe_hostRule (o : Observation) : (s.observe o).hostRule = s.hostRule := rfl

/-! ### hostSrcWrite -/

@[simp] theorem State.hostSrcWrite_regs (a : Nat) (v : Byte) : (s.hostSrcWrite a v).regs = s.regs := rfl
@[simp] theorem State.hostSrcWrite_result (a : Nat) (v : Byte) : (s.hostSrcWrite a v).result = s.result := rfl
@[simp] theorem State.hostSrcWrite_errInfo0 (a : Nat) (v : Byte) : (s.hostSrcWrite a v).errInfo0 = s.errInfo0 := rfl
@[simp] theorem State.hostSrcWrite_errInfo1 (a : Nat) (v : Byte) : (s.hostSrcWrite a v).errInfo1 = s.errInfo1 := rfl
@[simp] theorem State.hostSrcWrite_tex (a : Nat) (v : Byte) : (s.hostSrcWrite a v).tex = s.tex := rfl
@[simp] theorem State.hostSrcWrite_pending (a : Nat) (v : Byte) : (s.hostSrcWrite a v).pending = s.pending := rfl
@[simp] theorem State.hostSrcWrite_done (a : Nat) (v : Byte) : (s.hostSrcWrite a v).done = s.done := rfl
@[simp] theorem State.hostSrcWrite_err (a : Nat) (v : Byte) : (s.hostSrcWrite a v).err = s.err := rfl
@[simp] theorem State.hostSrcWrite_errCode (a : Nat) (v : Byte) : (s.hostSrcWrite a v).errCode = s.errCode := rfl
@[simp] theorem State.hostSrcWrite_latch (a : Nat) (v : Byte) : (s.hostSrcWrite a v).latch = s.latch := rfl
@[simp] theorem State.hostSrcWrite_src (a : Nat) (v : Byte) : (s.hostSrcWrite a v).src = s.src.write a v := rfl
@[simp] theorem State.hostSrcWrite_dst (a : Nat) (v : Byte) : (s.hostSrcWrite a v).dst = s.dst := rfl
@[simp] theorem State.hostSrcWrite_params (a : Nat) (v : Byte) : (s.hostSrcWrite a v).params = s.params := rfl
@[simp] theorem State.hostSrcWrite_script (a : Nat) (v : Byte) : (s.hostSrcWrite a v).script = s.script := rfl
@[simp] theorem State.hostSrcWrite_observed (a : Nat) (v : Byte) : (s.hostSrcWrite a v).observed = s.observed := rfl
@[simp] theorem State.hostSrcWrite_delay (a : Nat) (v : Byte) : (s.hostSrcWrite a v).delay = s.delay := rfl
@[simp] theorem State.hostSrcWrite_draws (a : Nat) (v : Byte) : (s.hostSrcWrite a v).draws = s.draws := rfl
@[simp] theorem State.hostSrcWrite_srcDisturbed (a : Nat) (v : Byte) : (s.hostSrcWrite a v).srcDisturbed = (s.srcDisturbed || s.inSrcWindow a) := rfl
@[simp] theorem State.hostSrcWrite_dstDisturbed (a : Nat) (v : Byte) : (s.hostSrcWrite a v).dstDisturbed = s.dstDisturbed := rfl
@[simp] theorem State.hostSrcWrite_hostRule (a : Nat) (v : Byte) : (s.hostSrcWrite a v).hostRule = s.hostRule := rfl

end Sys2Proof.Machine
end

