-- ==== Sys2Proof/Laws/Steps.lean ====
section
/-! SUPPORT. Inversion: everything a meaning, a host operation and a step can do, said once, guards included. -/

namespace Sys2Proof.Machine

theorem next_inj {a b : State} (h : (Host.Outcome.next a : Result) = .next b) : a = b := by cases h; rfl

/-- The commands that write RESULT (10_state R41). -/
def writesResult : Instr → Bool
  | .mapu | .mapc | .exp565 | .dtex | .dtexCo | .pack | .bswap32 | .bswap16 | .issup => true
  | .nop | .dcol | .dalpha | .dblk | .decode => false

/-- The commands that write TEX0..TEX15 (10_state R41). -/
def writesTex : Instr → Bool
  | .dcol | .dalpha | .dblk => true
  | .nop | .mapu | .mapc | .exp565 | .dtex | .dtexCo | .pack | .bswap32 | .bswap16 | .issup | .decode => false

/-- The DST writes of a DECODE change DST and the count of draws, nothing else. -/
theorem writeRaster_frame (cells : List Host.Cell) (s : State) :
    ∃ d n, s.writeRaster cells = { s with dst := d, draws := n } := by
  unfold State.writeRaster
  split <;> exact ⟨_, _, rfl⟩

/-- An undisturbed DECODE writes its cells and draws nothing. -/
theorem writeRaster_undisturbed (cells : List Host.Cell) (s : State) (h : s.undisturbed = true) :
    s.writeRaster cells = { s with dst := s.dst.writeCells cells } := by
  simp only [State.undisturbed, Bool.and_eq_true, Bool.not_eq_true', List.isEmpty_iff] at h
  simp [State.writeRaster, h.1, h.2, State.havocDst]

/-- Free bytes inside the space keep DST canonical. -/
theorem havocDst_wf (l : List Nat) (s : State) (h : s.dst.wf = true) (hl : ∀ a ∈ l, a < byteSpaceBytes) :
    (s.havocDst l).dst.wf = true := by
  refine Memory.writeCells_wf _ _ h (fun c hc => ?_)
  obtain ⟨ai, hai, rfl⟩ := List.mem_map.1 hc
  exact hl _ (List.fst_mem_of_mem_zipIdx hai)

/-- What free bytes leave at every DST offset: a free byte drawn now at the offsets given, the old byte elsewhere. -/
theorem havocDst_read (l : List Nat) (s : State) (h : s.dst.wf = true) (hl : ∀ a ∈ l, a < byteSpaceBytes) (a : Nat) :
    (a ∈ l → ∃ n, s.draws ≤ n ∧ n < s.draws + l.length ∧ (s.havocDst l).dst.read a = Config.freeByte n) ∧
    (a ∉ l → (s.havocDst l).dst.read a = s.dst.read a) := by
  have hin : ∀ c ∈ l.zipIdx.map (fun ai => (ai.1, Config.freeByte (s.draws + ai.2))), c.1 < byteSpaceBytes := by
    intro c hc
    obtain ⟨ai, hai, rfl⟩ := List.mem_map.1 hc
    exact hl _ (List.fst_mem_of_mem_zipIdx hai)
  constructor
  · intro ha
    have named : ∃ c ∈ l.zipIdx.map (fun ai => (ai.1, Config.freeByte (s.draws + ai.2))), c.1 = a := by
      obtain ⟨i, hi, e⟩ := List.mem_iff_getElem.1 ha
      refine ⟨_, List.mem_map.2 ⟨(a, i), ?_, rfl⟩, rfl⟩
      rw [List.mk_mem_zipIdx_iff_getElem?]
      simp [hi, e]
    obtain ⟨c, hc, e, hr⟩ := Memory.read_writeCells_some _ s.dst h hin a named
    obtain ⟨⟨b, i⟩, hai, rfl⟩ := List.mem_map.1 hc
    rw [List.mk_mem_zipIdx_iff_getElem?] at hai
    obtain ⟨hi, -⟩ := List.getElem?_eq_some_iff.1 hai
    exact ⟨s.draws + i, by omega, by omega, hr⟩
  · intro ha
    refine Memory.read_writeCells_other _ s.dst h hin a (fun c hc e => ?_)
    obtain ⟨ai, hai, rfl⟩ := List.mem_map.1 hc
    exact ha (e ▸ List.fst_mem_of_mem_zipIdx hai)

/-- The register map names every register at its own offset (10_state R21). -/
theorem Reg.ofOffset_offset (r : Reg) : Reg.ofOffset r.offset = some r := by
  cases r with
  | blk k => revert k; decide
  | tex k => revert k; decide
  | _ => decide

/-- The DST writes of a DECODE keep DST canonical. -/
theorem writeRaster_wf (cells : List Host.Cell) (s : State) (h : s.dst.wf = true)
    (hc : ∀ c ∈ cells, c.1 < byteSpaceBytes) (hd : ∀ a ∈ s.dstDisturbed, a < byteSpaceBytes) :
    (s.writeRaster cells).dst.wf = true := by
  unfold State.writeRaster
  have hw := Memory.writeCells_wf cells s.dst h hc
  refine havocDst_wf _ _ ?_ hd
  split
  · refine havocDst_wf _ _ hw (fun a ha => ?_)
    obtain ⟨c, hcm, rfl⟩ := List.mem_map.1 ha
    exact hc c hcm
  · exact hw

/-- What the DST writes of a DECODE leave at every offset, its cells naming offsets DST has and none twice: a free byte drawn
now where the host wrote DST in the window, and in every cell if it disturbed SRC; else the cell's byte, or the old byte
where no cell is (20_memory R67, R68). -/
theorem writeRaster_read (cells : List Host.Cell) (s : State) (h : s.dst.wf = true)
    (hc : ∀ c ∈ cells, c.1 < byteSpaceBytes) (nd : cells.Pairwise (fun c d => c.1 ≠ d.1))
    (hd : ∀ a ∈ s.dstDisturbed, a < byteSpaceBytes) (a : Nat) :
    (a ∈ s.dstDisturbed ∨ (s.srcDisturbed = true ∧ ∃ c ∈ cells, c.1 = a) →
      ∃ n, s.draws ≤ n ∧ n < (s.writeRaster cells).draws ∧ (s.writeRaster cells).dst.read a = Config.freeByte n) ∧
    (a ∉ s.dstDisturbed → s.srcDisturbed = false → ∀ c ∈ cells, c.1 = a → (s.writeRaster cells).dst.read a = c.2) ∧
    (a ∉ s.dstDisturbed → (∀ c ∈ cells, c.1 ≠ a) → (s.writeRaster cells).dst.read a = s.dst.read a) := by
  have hw := Memory.writeCells_wf cells s.dst h hc
  have hm : ∀ b ∈ cells.map Prod.fst, b < byteSpaceBytes := by
    intro b hb
    obtain ⟨c, hcm, rfl⟩ := List.mem_map.1 hb
    exact hc c hcm
  have base : (∀ c ∈ cells, c.1 = a → (s.dst.writeCells cells).read a = c.2) ∧
      ((∀ c ∈ cells, c.1 ≠ a) → (s.dst.writeCells cells).read a = s.dst.read a) :=
    ⟨fun c hcm e => e ▸ Memory.read_writeCells_mem cells s.dst h hc nd c hcm,
      fun hn => Memory.read_writeCells_other cells s.dst h hc a hn⟩
  unfold State.writeRaster
  generalize e : ({ s with dst := s.dst.writeCells cells } : State) = written
  have e1 : written.dst = s.dst.writeCells cells := by rw [← e]
  have e2 : written.draws = s.draws := by rw [← e]
  rw [← e1] at hw base
  have first := havocDst_read (cells.map Prod.fst) written hw hm a
  have firstWf := havocDst_wf (cells.map Prod.fst) written hw hm
  cases hs : s.srcDisturbed
  · have last := havocDst_read s.dstDisturbed written hw hd a
    simp only [Bool.false_eq_true, if_false, false_and, or_false, State.havocDst_draws]
    rw [e2] at last ⊢
    exact ⟨last.1, fun hn _ c hcm hca => (last.2 hn).trans (base.1 c hcm hca), fun hn hno => (last.2 hn).trans (base.2 hno)⟩
  · have last := havocDst_read s.dstDisturbed (written.havocDst (cells.map Prod.fst)) firstWf hd a
    simp only [if_true, true_and, State.havocDst_draws] at last ⊢
    rw [e2] at first last ⊢
    refine ⟨fun hor => ?_, fun _ hf => by simp at hf, fun hn hno => (last.2 hn).trans ((first.2 ?_).trans (base.2 hno))⟩
    · by_cases hda : a ∈ s.dstDisturbed
      · obtain ⟨n, h1, h2, h3⟩ := last.1 hda
        exact ⟨n, by omega, h2, h3⟩
      · obtain ⟨c, hcm, rfl⟩ := hor.resolve_left hda
        obtain ⟨n, h1, h2, h3⟩ := first.1 (List.mem_map.2 ⟨c, hcm, rfl⟩)
        exact ⟨n, h1, by omega, (last.2 hda).trans h3⟩
    · intro hm'
      obtain ⟨c, hcm, e3⟩ := List.mem_map.1 hm'
      exact hno c hcm e3

/-- Everything DECODE can do: one of its four errors, each under its own guard, or the raster (42_format_decoder R155). -/
theorem execDecode_cases (s t : State) (h : execDecode s = .next t) :
    (Format.ofCode s.latch.regs.format = none ∧ t = s.raiseError .unsupportedFormat (s.latch.regs.format.setWidth 64)) ∨
    ∃ f, Format.ofCode s.latch.regs.format = some f ∧
      let w := s.latch.regs.width.toNat
      let h := s.latch.regs.height.toNat
      let sl := s.latch.regs.srcLen.toNat
      let dl := s.latch.regs.dstLen.toNat
      (sl < f.srcReq w h ∧ t = s.raiseError .bufferTooSmall (saturate64 (f.srcReq w h))) ∨
      (f.srcReq w h ≤ sl ∧ dl < dstReq w h ∧ t = s.raiseError .dstTooSmall (saturate64 (dstReq w h))) ∨
      (f.srcReq w h ≤ sl ∧ dstReq w h ≤ dl ∧ ∃ off, f.rangeFailure s.params w h sl = some off ∧
        t = s.raiseError .srcIndexRange (saturate64 off)) ∨
      (f.srcReq w h ≤ sl ∧ dstReq w h ≤ dl ∧ f.rangeFailure s.params w h sl = none ∧
        t = (s.writeRaster (f.rasterCells s.params s.src w h)).finish) := by
  unfold execDecode at h
  cases hf : Format.ofCode s.latch.regs.format with
  | none => left; simp only [hf] at h; exact ⟨rfl, (next_inj h).symm⟩
  | some f =>
    right
    refine ⟨f, rfl, ?_⟩
    simp only [hf] at h
    split at h
    · rename_i h1; exact .inl ⟨h1, (next_inj h).symm⟩
    · rename_i h1
      split at h
      · rename_i h2; exact .inr (.inl ⟨Nat.le_of_not_lt h1, h2, (next_inj h).symm⟩)
      · rename_i h2
        split at h
        · rename_i off ho
          exact .inr (.inr (.inl ⟨Nat.le_of_not_lt h1, Nat.le_of_not_lt h2, off, ho, (next_inj h).symm⟩))
        · rename_i ho
          exact .inr (.inr (.inr ⟨Nat.le_of_not_lt h1, Nat.le_of_not_lt h2, ho, (next_inj h).symm⟩))

/-- Everything a command can do. -/
theorem exec_cases (i : Instr) (s t : State) (h : exec i s = .next t) :
    (writesResult i = true ∧ ∃ v, t = s.finishResult v) ∨ (writesTex i = true ∧ ∃ v, t = s.finishTex v) ∨
    (i = .nop ∧ t = s.finish) ∨ (i = .decode ∧ execDecode s = .next t) := by
  cases i
  case nop => exact .inr (.inr (.inl ⟨rfl, (next_inj h).symm⟩))
  case decode => exact .inr (.inr (.inr ⟨rfl, h⟩))
  case dcol => exact .inr (.inl ⟨rfl, _, (next_inj h).symm⟩)
  case dalpha => exact .inr (.inl ⟨rfl, _, (next_inj h).symm⟩)
  case dblk => exact .inr (.inl ⟨rfl, _, (next_inj h).symm⟩)
  all_goals exact .inl ⟨rfl, _, (next_inj h).symm⟩

/-- A REG access the bus admits goes on (20_memory R59). -/
theorem admitReg_next (off width : Nat) (k : State) (h1 : off < regSpaceBytes) (h2 : width = 32) (h3 : off % 4 = 0) :
    admitReg off width k = .next k := by
  simp only [admitReg, if_neg (Nat.not_le.2 h1), h2, h3, ne_eq, not_true_eq_false, if_false]

/-- A host write that goes on gives what it was to give, and is none the host rule refuses (70_reset R232). -/
theorem admitWrite_cases (forbidden : Bool) (why : Refusal) (k s t : State) (h : s.admitWrite forbidden why k = .next t) :
    (s.hostRule = .refuse → forbidden = false) ∧ t = k := by
  unfold State.admitWrite at h
  split at h
  · cases h
  · rename_i hn
    exact ⟨fun hr => by cases forbidden <;> simp_all, (next_inj h).symm⟩

/-- Everything a host operation that is not turned away can do. -/
theorem hostStep_cases (op : HostOp) (s t : State) (h : hostStep op s = .next t) :
    (∃ off v, op = .wr off 32 v ∧ off < regSpaceBytes ∧ off % 4 = 0 ∧ t = s.busWrite off v) ∨
    (∃ off, op = .rd off 32 ∧ off < regSpaceBytes ∧ off % 4 = 0 ∧ t = s.observe (.reg off (s.busRead off))) ∨
    (op = .wait ∧ t = if s.pending then { s with script := .wait :: s.script } else s) ∨
    (∃ a v, op = .srcWrite a v ∧ a < byteSpaceBytes ∧ (s.hostRule = .refuse → s.inSrcWindow a = false) ∧
      t = s.hostSrcWrite a v) ∨
    (∃ a, op = .dstRead a ∧ a < byteSpaceBytes ∧ t = s.hostDstRead a) ∨
    (∃ a v, op = .dstWrite a v ∧ a < byteSpaceBytes ∧ (s.hostRule = .refuse → s.inDstWindow a = false) ∧
      t = s.hostDstWrite a v) ∨
    (op = .reset ∧ t = s.resetUnit) := by
  have admitted : ∀ off width k, admitReg off width k = .next t →
      off < regSpaceBytes ∧ width = 32 ∧ off % 4 = 0 ∧ t = k := by
    intro off width k hk
    unfold admitReg at hk
    split at hk
    · cases hk
    · split at hk
      · cases hk
      · split at hk
        · cases hk
        · exact ⟨by omega, by omega, by omega, (next_inj hk).symm⟩
  cases op with
  | wr off width v =>
    obtain ⟨h1, rfl, h2, h3⟩ := admitted _ _ _ h
    exact .inl ⟨off, v, rfl, h1, h2, h3⟩
  | rd off width =>
    obtain ⟨h1, rfl, h2, h3⟩ := admitted _ _ _ h
    exact .inr (.inl ⟨off, rfl, h1, h2, h3⟩)
  | wait => exact .inr (.inr (.inl ⟨rfl, (next_inj h).symm⟩))
  | srcWrite a v =>
    simp only [hostStep] at h
    split at h
    · rename_i ha
      obtain ⟨hr, rfl⟩ := admitWrite_cases _ _ _ _ _ h
      exact .inr (.inr (.inr (.inl ⟨a, v, rfl, ha, hr, rfl⟩)))
    · cases h
  | dstRead a =>
    simp only [hostStep] at h
    split at h
    · rename_i ha; exact .inr (.inr (.inr (.inr (.inl ⟨a, rfl, ha, (next_inj h).symm⟩))))
    · cases h
  | dstWrite a v =>
    simp only [hostStep] at h
    split at h
    · rename_i ha
      obtain ⟨hr, rfl⟩ := admitWrite_cases _ _ _ _ _ h
      exact .inr (.inr (.inr (.inr (.inr (.inl ⟨a, v, rfl, ha, hr, rfl⟩)))))
    · cases h
  | reset => exact .inr (.inr (.inr (.inr (.inr (.inr ⟨rfl, (next_inj h).symm⟩)))))

/-- Everything a REG write can do: nothing, an issue, or an RW register stored. -/
theorem busWrite_cases (off : Nat) (v : Word) (s : State) :
    s.busWrite off v = s ∨ (s.pending = false ∧ s.busWrite off v = s.issue v) ∨
    ∃ g, s.busWrite off v = { s with regs := g } := by
  unfold State.busWrite
  split
  · unfold State.writeReg
    split
    · exact .inl rfl
    · split
      · exact .inl rfl
      · rename_i hp; exact .inr (.inl ⟨by simpa using hp, rfl⟩)
    · exact .inr (.inr ⟨_, rfl⟩)
  · exact .inl rfl

/-- On the host's turn a step is the host's next operation. -/
theorem step_host (s : State) (op : HostOp) (rest : List HostOp) (hu : s.unitTurn = false) (hs : s.script = op :: rest) :
    step s = hostStep op { s with script := rest, delay := s.delay - 1 } := by
  simp only [step, hu, hostTurn, hs, Bool.false_eq_true, if_false]

/-- A host write that R232 does not forbid, or that the host rule does not refuse, gives what it was to give. -/
theorem admitWrite_next (s : State) (forbidden : Bool) (why : Refusal) (k : State)
    (h : forbidden = false ∨ s.hostRule = .anyValue) : s.admitWrite forbidden why k = .next k := by
  refine if_neg ?_
  rintro ⟨h1, h2⟩
  rcases h with h | h
  · rw [h] at h1; cases h1
  · rw [h] at h2; cases h2

/-- The SRC window does not see the host's own side of the state. -/
@[simp] theorem inSrcWindow_host (a : Nat) (s : State) (p : List HostOp) (n : Nat) :
    State.inSrcWindow a { s with script := p, delay := n } = s.inSrcWindow a := rfl

/-- The DST window does not see the host's own side of the state. -/
@[simp] theorem inDstWindow_host (a : Nat) (s : State) (p : List HostOp) (n : Nat) :
    State.inDstWindow a { s with script := p, delay := n } = s.inDstWindow a := rfl

/-- Everything a step can do: the unit performs its command, the host does its next operation, or nothing happens. -/
theorem step_cases (s t : State) (h : step s = .next t) :
    (s.unitTurn = true ∧ ∃ i, Sys2Proof.decode s.latch.cmd = .instr i ∧ exec i s = .next t) ∨
    (s.unitTurn = true ∧ (∃ e, Sys2Proof.decode s.latch.cmd = .illegal e) ∧ t = s.raiseIllegal) ∨
    (s.unitTurn = false ∧ s.script = [] ∧ t = s) ∨
    (s.unitTurn = false ∧ ∃ op rest, s.script = op :: rest ∧
      hostStep op { s with script := rest, delay := s.delay - 1 } = .next t) := by
  unfold step at h
  split at h
  · rename_i hu
    unfold perform at h
    cases hd : Sys2Proof.decode s.latch.cmd with
    | instr i => simp only [hd] at h; exact .inl ⟨hu, i, rfl, h⟩
    | illegal e => simp only [hd] at h; exact .inr (.inl ⟨hu, ⟨e, rfl⟩, (next_inj h).symm⟩)
  · rename_i hu
    have hu : s.unitTurn = false := by simpa using hu
    unfold hostTurn at h
    cases hs : s.script with
    | nil => simp only [hs] at h; exact .inr (.inr (.inl ⟨hu, rfl, (next_inj h).symm⟩))
    | cons op rest => simp only [hs] at h; exact .inr (.inr (.inr ⟨hu, op, rest, rfl, h⟩))

end Sys2Proof.Machine
end

