-- ==== Sys2Proof/Tests/Slice0.lean ====
section
/-! SUPPORT. Tests: decoding from written-out words, the well-formedness checks, one-step vectors of 95_test_vectors, and a witness for the hypotheses of every obligation that has any. Expected values come from the spec's vectors or from hand calculation by its rules. -/

namespace Sys2Proof.Tests

open Sys2Proof Sys2Proof.Machine

/-! ### Helpers -/

/-- The test value T1 of 95_test_vectors 2.1 for UNC_TERMS, the second test value there for the compressed map. -/
def params : Params where
  uncTerms    := [⟨.x, 0xFFFFFFFF, .left 4⟩, ⟨.y, 0xF, .left 0⟩]
  uncSizes    := [(64, 64)]
  bcBaseShift := 4
  bcBaseMul   := 16
  bcTerms     := [⟨.y, 0x2, .left 6⟩, ⟨.y, 0x4, .left 6⟩]
  packPerm    := ⟨0, 2, 1, 3⟩

/-- A unit with the command word `w` pending and the operands `g` latched. -/
def pend (w : Word) (g : RWRegs) : State :=
  { State.reset with params := params, latch := ⟨w, g⟩, pending := true }

/-- The RW registers with three ARGs and four BLK words. -/
def ops (a0 a1 a2 b0 b1 b2 b3 : Word) : RWRegs :=
  { RWRegs.reset with arg0 := a0, arg1 := a1, arg2 := a2, blk := #v[b0, b1, b2, b3] }

/-- The RW registers set up for a DECODE. -/
def cfg (f w h sl dl : Word) : RWRegs :=
  { RWRegs.reset with format := f, width := w, height := h, srcLen := sl, dstLen := dl }

/-- A memory holding bytes from offset 0. -/
def bytes (b : List Byte) : Memory := Memory.writeCells [] (b.zipIdx.map (fun x => (x.2, x.1)))

/-- The state a step answers; the reset state where it stops. -/
def after (o : Result) : State :=
  match o with
  | .next s => s
  | _ => State.reset

/-- The step answers a next state. -/
def goesOn (o : Result) : Bool :=
  match o with
  | .next _ => true
  | _ => false

theorem goesOn_next (o : Result) (h : goesOn o = true) : o = .next (after o) := by
  cases o with
  | next s => rfl
  | _ => cases h

/-- A DECODE pending over given SRC bytes and a DST filled with given bytes. -/
def dec (g : RWRegs) (src dst : List Byte) : State := { pend 0x0000000C g with src := bytes src, dst := bytes dst }

/-- The 16 bytes of the DBLK row CB2 (95_test_vectors 2.2). -/
def cb2 : List Byte :=
  [0xFF, 0x00, 0x88, 0xC6, 0xFA, 0x88, 0xC6, 0xFA, 0x1F, 0x00, 0x00, 0xF8, 0xE4, 0xE4, 0xE4, 0xE4]

/-- A host program standing before an idle unit. -/
def host (p : List HostOp) : State := { State.reset with params := params, script := p }

/-- A host program standing while a command is pending, with two host steps to go before it is performed. -/
def hostBusy (w : Word) (g : RWRegs) (p : List HostOp) : State := { pend w g with script := p, delay := 2 }

/-- The same under the host rule that lets the writes of 70_reset R232 go on. -/
def hostFree (w : Word) (g : RWRegs) (p : List HostOp) : State := { hostBusy w g p with hostRule := .anyValue }

/-! ### Decoding: RES, M and OP written out bit by bit from 30_encoding R76 and R77 -/

theorem test_decode_nop : decode 0b00000000000000000000000000000000#32 = .instr .nop := by decide
theorem test_decode_mapu : decode 0b00000000000000000000000000000001#32 = .instr .mapu := by decide
theorem test_decode_mapc : decode 0b00000000000000000000000000000010#32 = .instr .mapc := by decide
theorem test_decode_exp565 : decode 0b00000000000000000000000000000011#32 = .instr .exp565 := by decide
theorem test_decode_dcol : decode 0b00000000000000000000000000000100#32 = .instr .dcol := by decide
theorem test_decode_dalpha : decode 0b00000000000000000000000000000101#32 = .instr .dalpha := by decide
theorem test_decode_dblk : decode 0b00000000000000000000000000000110#32 = .instr .dblk := by decide
theorem test_decode_dtex : decode 0b00000000000000000000000000000111#32 = .instr .dtex := by decide
theorem test_decode_dtexCo : decode 0b00000000000000000000000100000111#32 = .instr .dtexCo := by decide
theorem test_decode_pack : decode 0b00000000000000000000000000001000#32 = .instr .pack := by decide
theorem test_decode_bswap32 : decode 0b00000000000000000000000000001001#32 = .instr .bswap32 := by decide
theorem test_decode_bswap16 : decode 0b00000000000000000000000000001010#32 = .instr .bswap16 := by decide
theorem test_decode_issup : decode 0b00000000000000000000000000001011#32 = .instr .issup := by decide
theorem test_decode_decode : decode 0b00000000000000000000000000001100#32 = .instr .decode := by decide

/-- The first opcode above the map, the last one, M outside DTEX, the lowest and the highest RES bit (95_test_vectors 2.5). -/
theorem test_decode_illegal :
    [0x0000000D#32, 0x000000FF, 0x00000104, 0x00000200, 0x80000007].map decode =
      [.illegal .reservedOpcode, .illegal .reservedOpcode, .illegal .mOutsideDtex, .illegal .reservedBits,
        .illegal .reservedBits] := by decide

theorem test_decodeTableWord :
    (decodeTableWord 32 0x107, decodeTableWord 8 0x0C, decodeTableWord 32 0x10C, decodeTableWord 64 0x100000000) =
      (some .dtexCo, some .decode, none, none) := by decide

/-! ### Well-formedness: each check refuses an ill-formed term -/

theorem test_wf_rejects_narrow_write : (HostOp.wr 0x020 16 1).wf = false := by decide
theorem test_wf_rejects_misaligned_write : (HostOp.wr 0x022 32 1).wf = false := by decide
theorem test_wf_rejects_write_past_reg : (HostOp.wr 0x1000 32 1).wf = false := by decide
theorem test_wf_rejects_wide_read : (HostOp.rd 0x020 64).wf = false := by decide
theorem test_wf_rejects_misaligned_read : (HostOp.rd 0x021 32).wf = false := by decide
theorem test_wf_rejects_read_past_reg : (HostOp.rd 0x1004 32).wf = false := by decide
theorem test_wf_rejects_src_past_end : (HostOp.srcWrite 0x100000000 1).wf = false := by decide
theorem test_wf_rejects_dst_read_past_end : (HostOp.dstRead 0x100000000).wf = false := by decide
theorem test_wf_rejects_dst_write_past_end : (HostOp.dstWrite 0x100000000 1).wf = false := by decide
theorem test_wf_rejects_repeated_lane : PackPerm.wf ⟨0, 2, 2, 3⟩ = false := by decide
theorem test_wf_rejects_unpadded_size : sizeAllowed (64, 65) = false := by decide
theorem test_wf_rejects_huge_size : sizeAllowed (65536, 65600) = false := by decide
theorem test_wf_rejects_missing_64 : Params.wf { params with uncSizes := [(128, 64)] } = false := by decide
theorem test_wf_rejects_bad_unc_size : Params.wf { params with uncSizes := [(64, 64), (63, 64)] } = false := by decide
theorem test_wf_rejects_missing_fixed_term : Params.wf { params with bcTerms := [⟨.y, 0x2, .left 6⟩] } = false := by decide
theorem test_wf_rejects_doubled_fixed_term :
    Params.wf { params with bcTerms := [⟨.y, 0x2, .left 6⟩, ⟨.y, 0x2, .left 6⟩, ⟨.y, 0x4, .left 6⟩] } = false := by decide
theorem test_wf_rejects_bad_perm : Params.wf { params with packPerm := ⟨0, 0, 1, 3⟩ } = false := by decide
theorem test_wf_accepts_params : params.wf = true := by decide
theorem test_wf_rejects_unsorted_memory : Memory.wf [(2, 1), (1, 1)] = false := by decide
theorem test_wf_rejects_repeated_address : Memory.wf [(1, 1), (1, 2)] = false := by decide
theorem test_wf_rejects_blank_byte : Memory.wf [(1, 0)] = false := by decide
theorem test_wf_rejects_address_past_end : Memory.wf [(0x100000000, 1)] = false := by decide

/-! ### One step per command (95_test_vectors) -/

theorem test_nop_clears_report :
    (after (step { (State.reset.raiseError .illegalCmd 0xD).issueWith 0x00000000 0 with params := params })).busRead 0x004
      = 0x00000002 := by decide
theorem test_mapu_second_tile : (after (step (pend 0x00000001 (ops 5 17 64 0 0 0 0)))).result = 0x451 := by decide
theorem test_mapu_base_wraps :
    (after (step { pend 0x00000001 (ops 0 0xFFFFFFFF 0x10 0 0 0 0) with params := { params with uncTerms := [] } })).result
      = 0xFFFFFF00 := by decide
theorem test_mapc_base_and_fixed_terms : (after (step (pend 0x00000002 (ops 0 31 16 0 0 0 0)))).result = 0x080 := by decide
theorem test_mapc_both_fixed_terms : (after (step (pend 0x00000002 (ops 5 6 16 0 0 0 0)))).result = 0x180 := by decide
theorem test_exp565_ignores_high_half :
    (after (step (pend 0x00000003 (ops 0xABCD1234 0 0 0 0 0 0)))).result = 0xFFA54510 := by decide
theorem test_exp565_truncates : (after (step (pend 0x00000003 (ops 0x8410 0 0 0 0 0 0)))).result = 0xFF848284 := by decide
theorem test_dcol_four_colour :
    (after (step (pend 0x00000004 (ops 0 0 0 0x001FF800 0xE4E4E4E4 0 0)))).tex.toList.take 4
      = [0xFF0000FF, 0xFFFF0000, 0xFF5500AA, 0xFFAA0055] := by decide
/-- CB4: selectors 3, 2, 1, 0 in texel order. -/
theorem test_dcol_three_colour :
    (after (step (pend 0x00000004 (ops 0 0 0 0x7BEF1234 0x1B1B1B1B 0 0)))).tex.toList.take 4
      = [0xFF000000, 0xFF906145, 0xFF7B7D7B, 0xFFA54510] := by decide
theorem test_dalpha_seven_step :
    (after (step (pend 0x00000005 (ops 0 0 0 0xC68800FF 0xFAC688FA 0 0)))).tex.toList.take 8
      = [0xFF000000, 0, 0xDA000000, 0xB6000000, 0x91000000, 0x6D000000, 0x48000000, 0x24000000] := by decide
/-- a0 = 40, a1 = 200 (W2). -/
theorem test_dalpha_five_step :
    (after (step (pend 0x00000005 (ops 0 0 0 0xC688C828 0xFAC688FA 0 0)))).tex.toList.take 8
      = [0x28000000, 0xC8000000, 0x48000000, 0x68000000, 0x88000000, 0xA8000000, 0, 0xFF000000] := by decide
theorem test_dblk_punch_through :
    (after (step (pend 0x00000006 (ops 0 0 0 0xC68800FF 0xFAC688FA 0xF800001F 0xE4E4E4E4)))).tex.toList.take 8
      = [0xFFFF0000, 0x000000FF, 0xDA7F007F, 0, 0x91FF0000, 0x6D0000FF, 0x487F007F, 0] := by decide
theorem test_dblk_four_colour_keeps_alpha :
    (after (step (pend 0x00000006 (ops 0 0 0 0xC68800FF 0xFAC688FA 0x001FF800 0xE4E4E4E4)))).tex.toList.drop 12
      = [0x910000FF, 0x6DFF0000, 0x485500AA, 0x24AA0055] := by decide
/-- i = 6 mod 4 = 2 and j = 5 mod 4 = 1. -/
theorem test_dtex_reads_low_bits :
    (after (step (pend 0x00000007 (ops 6 5 0 0xC68800FF 0xFAC688FA 0xF800001F 0xE4E4E4E4)))).result = 0x487F007F := by decide
theorem test_dtexCo_reads_low_block_bytes :
    (after (step (pend 0x00000107 (ops 0 0 0 0xC68800FF 0xFAC688FA 0xF800001F 0xE4E4E4E4)))).result = 0xFFA07763 := by decide
theorem test_dtexCo_punch_through :
    (after (step (pend 0x00000107 (ops 3 0 0 0xC68800FF 0xFAC688FA 0xF800001F 0xE4E4E4E4)))).result = 0xFF000000 := by decide
theorem test_pack : (after (step (pend 0x00000008 (ops 0x44332211 0 0 0 0 0 0)))).result = 0x44223311 := by decide
theorem test_pack_other_perm :
    (after (step { pend 0x00000008 (ops 0x44332211 0 0 0 0 0 0) with params := { params with packPerm := ⟨2, 1, 0, 3⟩ } })).result
      = 0x44112233 := by decide
theorem test_bswap32 : (after (step (pend 0x00000009 (ops 0x44332211 0 0 0 0 0 0)))).result = 0x11223344 := by decide
theorem test_bswap16 : (after (step (pend 0x0000000A (ops 0x44332211 0 0 0 0 0 0)))).result = 0x00001122 := by decide
theorem test_issup_compares_all_bits :
    [0x1A, 0x33, 0x00, 0x1B, 0x32, 0x34, 0x11A, 0x1A00, 0xFFFFFFFF].map
        (fun f => (after (step (pend 0x0000000B (ops f 0 0 0 0 0 0)))).result)
      = [1, 1, 0, 0, 0, 0, 0, 0, 0] := by decide
/-- The 5 x 4 case of 95_test_vectors 2.3, DST filled with 0xEE: pixel (4, 0) is untouched. -/
theorem test_decode_uncovered_pixel :
    (after (step (dec (cfg 0x33 5 4 16 80) cb2 (List.replicate 20 0xEE)))).dst.readBytes 0 20
      = [0x00, 0x00, 0xFF, 0xFF, 0xFF, 0x00, 0x00, 0x00, 0x7F, 0x00, 0x7F, 0xDA, 0x00, 0x00, 0x00, 0x00,
         0xEE, 0xEE, 0xEE, 0xEE] := by decide
/-- STATUS and ERRINFO of the error rows of 95_test_vectors 2.3 and of an illegal word. -/
theorem test_decode_errors :
    ([cfg 0x1B 64 64 0 0, cfg 0x1A 64 64 16383 16384, cfg 0x1A 64 64 16384 16383, cfg 0x33 64 64 4095 16384,
        cfg 0x1A 0x10000 0x10000 0xFFFFFFFF 0xFFFFFFFF, cfg 0x1A 0xFFFFFFFF 0xFFFFFFFF 0 0].map (fun g =>
          let t := after (step (dec g [] []))
          (t.busRead 0x004, t.busRead 0x034, t.busRead 0x030)))
      = [(0x206, 0, 0x1B), (0x306, 0, 0x4000), (0x406, 0, 0x4000), (0x306, 0, 0x1000), (0x306, 4, 0),
         (0x306, 0xFFFFFFFF, 0xFFFFFFFF)] := by decide

/-! ### The host's side -/

/-- `WR TEX3` is ignored, `RD 0x038` reads 0, `WR ARG2` stores (10_state R21, R38). -/
theorem test_register_accesses :
    ((State.reset.busWrite 0x08C 5).busRead 0x08C, State.reset.busRead 0x038, (State.reset.busWrite 0x028 7).busRead 0x028)
      = (0, 0, 7) := by decide
/-- A CMD write issues in an idle unit and is dropped in a busy one (10_state R40 a, c). -/
theorem test_cmd_write :
    ((after (step (host (Asm.command 0x00000008)))).pending,
      (after (step (hostBusy 0x00000008 RWRegs.reset (Asm.command 0x00000009)))).latch.cmd) = (true, 0x00000008) := by decide
theorem test_misaligned_access_is_refused : step (host [.rd 0x021 32]) = .refused .regAccessMisaligned := by rfl
theorem test_access_past_reg_faults : step (host [.rd 0x1000 32]) = .fault .regOutOfSpace := by rfl
theorem test_access_past_src_faults : step (host [.srcWrite 0x100000000 1]) = .fault .srcOutOfSpace := by rfl
theorem test_access_past_dst_faults : step (host [.dstWrite 0x100000000 1]) = .fault .dstOutOfSpace := by rfl
/-- 70_reset R232 under the host rule of reset: the last byte of each window is refused, the first past it is not. -/
theorem test_in_window_src_write_is_refused :
    step (hostBusy 0x0000000C (cfg 0x1A 2 2 72 16) [.srcWrite 71 9]) = .refused .srcWriteInWindow := by rfl
theorem test_in_window_dst_write_is_refused :
    step (hostBusy 0x0000000C (cfg 0x1A 2 2 72 16) [.dstWrite 15 9]) = .refused .dstWriteInWindow := by rfl
theorem test_writes_past_windows_go_on :
    (goesOn (step (hostBusy 0x0000000C (cfg 0x1A 2 2 72 16) [.srcWrite 72 9])),
      (after (step (hostBusy 0x0000000C (cfg 0x1A 2 2 72 16) [.dstWrite 16 9]))).dst) = (true, [(16, 9)]) := by decide
/-- A CMD write while a DECODE is pending is dropped, not refused (10_state R40 c). -/
theorem test_busy_cmd_write_goes_on :
    goesOn (step (hostBusy 0x0000000C (cfg 0x1A 2 2 72 16) (Asm.command 8))) = true := by decide
/-- A word placed by withFetchWord runs as the first step after reset. -/
theorem test_withFetchWord : (after (step (State.reset.withFetchWord 32 0x0D))).busRead 0x004 = 0x00000106 := by decide
/-- Little-endian host assembly: SRCB writes upward. -/
theorem test_srcb : Asm.srcb 7 [1, 2] = [.srcWrite 7 1, .srcWrite 8 2] := by decide

/-- LDBLK of 95_test_vectors P2. -/
theorem test_ldblk :
    Asm.ldblk 0xFF 0x00 0x88 0xC6 0xFA 0x88 0xC6 0xFA 0x1F 0x00 0x00 0xF8 0xE4 0xE4 0xE4 0xE4
      = [.wr 0x040 32 0xC68800FF, .wr 0x044 32 0xFAC688FA, .wr 0x048 32 0xF800001F, .wr 0x04C 32 0xE4E4E4E4] := by decide

/-! ### The test parameters meet 40_address_mapper R104 at 64 by 64 -/

/-- T1 at width 64 in closed form, by evaluation over all 4096 pixels. -/
theorem t1_value : ∀ x y : Fin 64, (mapUncompressed params (BitVec.ofNat 32 x.val) (BitVec.ofNat 32 y.val) 64).toNat
    = y.val / 16 * 1024 + x.val * 16 + y.val % 16 := by decide +kernel

theorem t1_at (x y : Nat) (hx : x < 64) (hy : y < 64) :
    (mapUncompressed params (BitVec.ofNat 32 x) (BitVec.ofNat 32 y) 64).toNat = y / 16 * 1024 + x * 16 + y % 16 :=
  t1_value ⟨x, hx⟩ ⟨y, hy⟩

theorem witness_uncObligation : UncObligation params where
  injective := by
    intro wh hwh x₁ y₁ x₂ y₂ hx₁ hy₁ hx₂ hy₂ he
    obtain rfl : wh = (64, 64) := by simpa [params] using hwh
    have h₁ := t1_at x₁ y₁ hx₁ hy₁
    have h₂ := t1_at x₂ y₂ hx₂ hy₂
    have he' := congrArg BitVec.toNat he
    simp only [] at hx₁ hy₁ hx₂ hy₂
    have e : y₁ / 16 * 1024 + x₁ * 16 + y₁ % 16 = y₂ / 16 * 1024 + x₂ * 16 + y₂ % 16 := h₁.symm.trans (he'.trans h₂)
    omega
  has64 := by decide
  range64 := by
    intro x y hx hy
    rw [t1_at x y hx hy]
    omega
  onto64 := by
    intro n hn
    refine ⟨n / 16 % 64, n / 1024 * 16 + n % 16, by omega, by omega, ?_⟩
    rw [t1_at _ _ (by omega) (by omega)]
    omega

/-! ### Witnesses: a concrete state that meets the hypotheses of each obligation -/

theorem witness_DecodeEncodeAgree :
    Instr.decode.wf = true ∧ decode 0x00000107 = .instr .dtexCo := by decide

theorem witness_StepRunsThePendingCommand :
    (pend 0x0000000C RWRegs.reset).unitTurn = true ∧
    decode (pend 0x0000000C RWRegs.reset).latch.cmd = .instr .decode := by decide

/-- One word for each case of 30_encoding R83, at its boundary. -/
theorem witness_IllegalWordRaisesIllegalCmd :
    ((pend 0x0000000D RWRegs.reset).unitTurn = true ∧ Spec.illegalWord (pend 0x0000000D RWRegs.reset).latch.cmd.toNat) ∧
    ((pend 0x00000200 RWRegs.reset).unitTurn = true ∧ Spec.illegalWord (pend 0x00000200 RWRegs.reset).latch.cmd.toNat) ∧
    ((pend 0x00000104 RWRegs.reset).unitTurn = true ∧ Spec.illegalWord (pend 0x00000104 RWRegs.reset).latch.cmd.toNat) :=
  ⟨⟨rfl, .inl (by decide)⟩, ⟨rfl, .inr (.inl (by decide))⟩, ⟨rfl, .inr (.inr ⟨by decide, by decide⟩)⟩⟩

theorem witness_LegalWordIsExactlyOneCommand :
    ((pend 0x0000000C RWRegs.reset).unitTurn = true ∧ ¬ Spec.illegalWord (pend 0x0000000C RWRegs.reset).latch.cmd.toNat) ∧
    ((pend 0x00000107 RWRegs.reset).unitTurn = true ∧ ¬ Spec.illegalWord (pend 0x00000107 RWRegs.reset).latch.cmd.toNat) := by
  refine ⟨⟨rfl, ?_⟩, ⟨rfl, ?_⟩⟩
  · rintro (h | h | ⟨h, _⟩) <;> revert h <;> decide
  · rintro (h | h | ⟨_, h⟩) <;> revert h <;> decide

theorem witness_CmdWriteIssuesOrIsDropped :
    ((host (Asm.command 0x0C)).script = .wr 0x008 32 0x0C :: [] ∧ (host (Asm.command 0x0C)).pending = false) ∧
    ((hostBusy 8 RWRegs.reset (Asm.command 0x0C)).script = .wr 0x008 32 0x0C :: [] ∧
      (hostBusy 8 RWRegs.reset (Asm.command 0x0C)).pending = true ∧
      (hostBusy 8 RWRegs.reset (Asm.command 0x0C)).delay ≠ 0) := by decide

theorem witness_PendingCommandIsPerformed :
    (hostBusy 8 RWRegs.reset (Asm.command 0x0C ++ [.wait, .rd 0x02C 32])).pending = true ∧
    ∀ op ∈ (hostBusy 8 RWRegs.reset (Asm.command 0x0C ++ [.wait, .rd 0x02C 32])).script,
      op.admitted (hostBusy 8 RWRegs.reset (Asm.command 0x0C ++ [.wait, .rd 0x02C 32])) = true ∧ op ≠ .reset := by decide

/-- A pending DECODE of the 2 x 2 texture whose largest offset under T1 is 4 * 17. -/
def small : State := dec (cfg 0x1A 2 2 72 16) cb2 []

/-- The same after the host disturbed both sides of its window, at the window's last byte. -/
def smallDisturbed : State := { small with srcDisturbed := true, dstDisturbed := [15], hostRule := .anyValue }

/-- The same after the host disturbed only DST. -/
def smallDstDisturbed : State := { small with dstDisturbed := [15], hostRule := .anyValue }

theorem small_inv : small.Inv where
  srcWf := by decide
  dstWf := by decide
  reportOk := ⟨by decide, by decide, by decide, by decide⟩
  paramsWf := by decide
  disturbedIn := by decide
  refusedIn := by decide

theorem smallDisturbed_inv : smallDisturbed.Inv where
  srcWf := by decide
  dstWf := by decide
  reportOk := ⟨by decide, by decide, by decide, by decide⟩
  paramsWf := by decide
  disturbedIn := by decide
  refusedIn := by decide

theorem smallDstDisturbed_inv : smallDstDisturbed.Inv where
  srcWf := by decide
  dstWf := by decide
  reportOk := ⟨by decide, by decide, by decide, by decide⟩
  paramsWf := by decide
  disturbedIn := by decide
  refusedIn := by decide

theorem small_range : ∀ x y : Fin 2, Spec.texelOffset params 2 x.val y.val + 4 ≤ 72 := by decide

theorem small_checks : Spec.uncChecksPass small where
  format := by decide
  src := by decide
  dst := by decide
  range := fun x y hx hy => small_range ⟨x, hx⟩ ⟨y, hy⟩

theorem witness_CommandsWriteOnlyTheirResults :
    smallDisturbed.Inv ∧ 4 * (smallDisturbed.latch.regs.width.toNat * smallDisturbed.latch.regs.height.toNat) ≤ 16 ∧
      16 ∉ smallDisturbed.dstDisturbed := ⟨smallDisturbed_inv, by decide, by decide⟩

theorem witness_ErrorsWriteNoResult :
    (pend 0x0D RWRegs.reset).unitTurn = true ∧ (pend 0x0D RWRegs.reset).err = false ∧
      step (pend 0x0D RWRegs.reset) = .next (after (step (pend 0x0D RWRegs.reset))) ∧
      (after (step (pend 0x0D RWRegs.reset))).err = true :=
  ⟨by decide, by decide, goesOn_next _ (by decide), by decide⟩

theorem witness_OnlyDecodeRaisesAfterDecoding : Instr.dblk ≠ .decode ∧ small.err = false := by decide

theorem witness_RegisterWrites :
    Reg.format.access = .rw ∧ (Reg.blk 3).access = .rw ∧ Reg.blk 3 ≠ .format ∧ Reg.id.access = .ro ∧
      (Reg.tex 15).access = .ro := by decide

theorem witness_IdIsConstant : ∃ t, step (host [.reset]) = .next t := ⟨_, rfl⟩

/-- The first gap of the map, the gap before TEX0, the first offset past TEX15, the last word of REG. -/
theorem witness_ReservedSpace :
    (∀ off ∈ [0x038, 0x07C, 0x0C0, 0xFFC], Reg.all.all (fun r => r.offset != off) = true) ∧
      (∀ r : Reg, r ∈ Reg.all) ∧ (Reg.blk 0).access = .rw := by
  refine ⟨by decide, fun r => ?_, by decide⟩
  cases r with
  | blk k => revert k; decide
  | tex k => revert k; decide
  | _ => decide

/-- A read of the last word of REG, a write of an RO register, of an RW register at the end of its bank, of CMD. -/
theorem witness_HostRegAccessEffects :
    ((host [.rd 0xFFC 32]).unitTurn = false ∧ (host [.rd 0xFFC 32]).script = .rd 0xFFC 32 :: [] ∧ 0xFFC < 4096 ∧
      0xFFC % 4 = 0) ∧
    ((hostBusy 8 RWRegs.reset [.wr 0x000 32 1]).unitTurn = false ∧
      (hostBusy 8 RWRegs.reset [.wr 0x000 32 1]).script = .wr 0x000 32 1 :: [] ∧
      ∀ r ∈ Reg.all, r.offset = 0x000 → r.access = .ro) ∧
    ((hostBusy 8 RWRegs.reset [.wr 0x04C 32 1]).unitTurn = false ∧
      (hostBusy 8 RWRegs.reset [.wr 0x04C 32 1]).script = .wr 0x04C 32 1 :: [] ∧ 0x04C < 4096 ∧ 0x04C % 4 = 0 ∧
      (Reg.blk 3).offset = 0x04C ∧ (Reg.blk 3).access = .rw) ∧
    ((host [.wr 0x008 32 1]).unitTurn = false ∧ (host [.wr 0x008 32 1]).script = .wr 0x008 32 1 :: []) := by decide

theorem witness_OddRegAccessIsRefused :
    ((host [.rd 0xFFC 32]).unitTurn = false ∧ (host [.rd 0xFFC 32]).script = .rd 0xFFC 32 :: [] ∧ (32 = 32 ∧ 0xFFC % 4 = 0)) ∧
    ((host [.wr 0xFFF 32 1]).unitTurn = false ∧ (host [.wr 0xFFF 32 1]).script = .wr 0xFFF 32 1 :: [] ∧
      ¬ (32 = 32 ∧ 0xFFF % 4 = 0)) ∧
    ((host [.rd 0x000 8]).unitTurn = false ∧ (host [.rd 0x000 8]).script = .rd 0x000 8 :: [] ∧ ¬ (8 = 32 ∧ 0x000 % 4 = 0)) := by
  decide

theorem witness_HostTurnKeepsResults :
    (host (Asm.command 8)).unitTurn = false ∧ (host (Asm.command 8)).script = .wr 0x008 32 8 :: [] ∧
      (HostOp.wr 0x008 32 8) ≠ .reset ∧ ∃ t, step (host (Asm.command 8)) = .next t :=
  ⟨by decide, by decide, by decide, _, rfl⟩

theorem witness_CanonicalMemoryIsUnique :
    Memory.wf [(0, 1), (0xFFFFFFFF, 2)] = true ∧
      (Memory.write [(0xFFFFFFFF, 2)] 0 1).wf = true ∧
      ∀ a, Memory.read [(0, 1), (0xFFFFFFFF, 2)] a = (Memory.write [(0xFFFFFFFF, 2)] 0 1).read a :=
  ⟨by decide, by decide, fun _ => rfl⟩

theorem witness_SrcAndDstAreSeparate : ∃ t, step (host [.srcWrite 0xFFFFFFFF 1]) = .next t := ⟨_, rfl⟩

/-- Each kind of byte access at the last byte of its space, in an idle unit. -/
theorem witness_HostByteAccesses :
    ∀ op ∈ [HostOp.srcWrite 0xFFFFFFFF 9, .dstWrite 0xFFFFFFFF 9, .dstRead 0xFFFFFFFF],
      (host [op]).unitTurn = false ∧ (host [op]).src.wf = true ∧ (host [op]).dst.wf = true ∧ 0xFFFFFFFF < 2 ^ 32 ∧
      (host [op]).script = op :: [] ∧ (host [op]).inSrcWindow 0xFFFFFFFF = false ∧
      (host [op]).inDstWindow 0xFFFFFFFF = false := by decide

/-- An SRC write at the last byte of a window, which marks. -/
theorem witness_HostByteAccesses_marks :
    (hostFree 0x0000000C (cfg 0x1A 2 2 72 16) [.srcWrite 71 9]).unitTurn = false ∧
    (hostFree 0x0000000C (cfg 0x1A 2 2 72 16) [.srcWrite 71 9]).script = .srcWrite 71 9 :: [] ∧
    (hostFree 0x0000000C (cfg 0x1A 2 2 72 16) [.srcWrite 71 9]).src.wf = true ∧
    (hostFree 0x0000000C (cfg 0x1A 2 2 72 16) [.srcWrite 71 9]).dst.wf = true ∧
    (hostFree 0x0000000C (cfg 0x1A 2 2 72 16) [.srcWrite 71 9]).hostRule = .anyValue ∧
    (hostFree 0x0000000C (cfg 0x1A 2 2 72 16) [.srcWrite 71 9]).inSrcWindow 71 = true := by decide

/-- Both kinds of access at the window's last byte. -/
theorem witness_DstWindowIsFree :
    ∀ op ∈ [HostOp.dstRead 15, .dstWrite 15 9],
      (hostFree 0x0000000C (cfg 0x1A 2 2 72 16) [op]).unitTurn = false ∧
      (hostFree 0x0000000C (cfg 0x1A 2 2 72 16) [op]).pending = true ∧
      (hostFree 0x0000000C (cfg 0x1A 2 2 72 16) [op]).latch.cmd = 0x0000000C ∧ 15 < 2 ^ 32 ∧
      15 < 4 * ((hostFree 0x0000000C (cfg 0x1A 2 2 72 16) [op]).latch.regs.width.toNat *
        (hostFree 0x0000000C (cfg 0x1A 2 2 72 16) [op]).latch.regs.height.toNat) ∧
      (hostFree 0x0000000C (cfg 0x1A 2 2 72 16) [op]).dst.wf = true ∧
      (hostFree 0x0000000C (cfg 0x1A 2 2 72 16) [op]).script = op :: [] ∧
      (hostFree 0x0000000C (cfg 0x1A 2 2 72 16) [op]).hostRule = .anyValue := by decide

/-- The last byte inside and the first byte past each window, under each host rule, and an idle unit. -/
theorem witness_ForbiddenHostWrites :
    (∀ op ∈ [HostOp.srcWrite 71 9, .srcWrite 72 9, .dstWrite 15 9, .dstWrite 16 9],
      ((hostBusy 0x0000000C (cfg 0x1A 2 2 72 16) [op]).unitTurn = false ∧
        (hostBusy 0x0000000C (cfg 0x1A 2 2 72 16) [op]).script = op :: [] ∧
        (hostBusy 0x0000000C (cfg 0x1A 2 2 72 16) [op]).hostRule = .refuse ∧
        (hostBusy 0x0000000C (cfg 0x1A 2 2 72 16) [op]).pending = true ∧
        (hostBusy 0x0000000C (cfg 0x1A 2 2 72 16) [op]).latch.cmd = 0x0000000C) ∧
      ((hostFree 0x0000000C (cfg 0x1A 2 2 72 16) [op]).unitTurn = false ∧
        (hostFree 0x0000000C (cfg 0x1A 2 2 72 16) [op]).script = op :: [] ∧
        (hostFree 0x0000000C (cfg 0x1A 2 2 72 16) [op]).hostRule = .anyValue ∧
        (hostFree 0x0000000C (cfg 0x1A 2 2 72 16) [op]).pending = true ∧
        (hostFree 0x0000000C (cfg 0x1A 2 2 72 16) [op]).latch.cmd = 0x0000000C) ∧
      ((host [op]).unitTurn = false ∧ (host [op]).script = op :: [] ∧ (host [op]).pending = false)) ∧
    71 < (cfg 0x1A 2 2 72 16).srcLen.toNat ∧ ¬ 72 < (cfg 0x1A 2 2 72 16).srcLen.toNat ∧
    15 < 4 * ((cfg 0x1A 2 2 72 16).width.toNat * (cfg 0x1A 2 2 72 16).height.toNat) ∧
    ¬ 16 < 4 * ((cfg 0x1A 2 2 72 16).width.toNat * (cfg 0x1A 2 2 72 16).height.toNat) := by decide

theorem witness_TermOrderDoesNotMatter :
    params.uncTerms.reverse.Perm params.uncTerms ∧ params.bcTerms.reverse.Perm params.bcTerms :=
  ⟨List.reverse_perm _, List.reverse_perm _⟩

theorem witness_TermPartIsXorLinear :
    (⟨.x, 0xFFFFFFFF, .left 4⟩ : MapperTerm).coord = .x ∧ (⟨.y, 0xF, .right 31⟩ : MapperTerm).coord = .y := by decide

theorem witness_FixedCompressedTerms :
    params.wf = true ∧ Params.wf { params with bcTerms := ⟨.y, 0x3, .left 6⟩ :: params.bcTerms } = true := by decide

/-- W4: both endpoints 0x8410, selectors 0 to 3. -/
theorem witness_EqualEndpoints :
    (pend 4 (ops 0 0 0 0x84108410 0xE4E4E4E4 0 0)).latch.regs.blk[0].toNat % 65536 = 0x8410 ∧
    (pend 4 (ops 0 0 0 0x84108410 0xE4E4E4E4 0 0)).latch.regs.blk[0].toNat / 65536 = 0x8410 ∧
    ((pend 4 (ops 0 0 0 0x84108410 0xE4E4E4E4 0 0)).latch.regs.blk[1].toNat / 4 ^ 2 % 4 ≠ 3 ∧
      (pend 4 (ops 0 0 0 0x84108410 0xE4E4E4E4 0 0)).latch.regs.blk[1].toNat / 4 ^ 3 % 4 = 3) ∧
    ∃ t, exec .dcol (pend 4 (ops 0 0 0 0x84108410 0xE4E4E4E4 0 0)) = .next t :=
  ⟨by decide, by decide, by decide, _, rfl⟩

theorem witness_PackFnIsABijection : PackPerm.wf ⟨3, 2, 1, 0⟩ = true ∧ PackPerm.wf ⟨0, 2, 1, 3⟩ = true := by decide

theorem witness_Bswap32Result : (pend 9 (ops 0x11223344 0 0 0 0 0 0)).latch.regs.arg0 = 0x11223344 := by decide

theorem witness_DecodeUnsupportedFormat :
    (dec (cfg 0x1B 64 64 0 0) [] []).latch.regs.format ≠ 0x1A ∧ (dec (cfg 0x1B 64 64 0 0) [] []).latch.regs.format ≠ 0x33 := by
  decide

/-- One byte short of the requirement in each format, and a requirement above 2^64. -/
theorem witness_DecodeBufferTooSmall :
    ((dec (cfg 0x1A 64 64 16383 16384) [] []).latch.regs.format = 0x1A ∧ 16384 = 4 * (dec (cfg 0x1A 64 64 16383 16384) [] []).latch.regs.width.toNat * (dec (cfg 0x1A 64 64 16383 16384) [] []).latch.regs.height.toNat ∧
      (dec (cfg 0x1A 64 64 16383 16384) [] []).latch.regs.srcLen.toNat < 16384) ∧
    ((dec (cfg 0x33 64 64 4095 16384) [] []).latch.regs.format = 0x33 ∧ 4096 = 16 * ((dec (cfg 0x33 64 64 4095 16384) [] []).latch.regs.width.toNat / 4) * ((dec (cfg 0x33 64 64 4095 16384) [] []).latch.regs.height.toNat / 4) ∧
      (dec (cfg 0x33 64 64 4095 16384) [] []).latch.regs.srcLen.toNat < 4096) ∧
    ((dec (cfg 0x1A 0xFFFFFFFF 0xFFFFFFFF 0 0) [] []).latch.regs.format = 0x1A ∧ 0x3FFFFFFF800000004 = 4 * (dec (cfg 0x1A 0xFFFFFFFF 0xFFFFFFFF 0 0) [] []).latch.regs.width.toNat * (dec (cfg 0x1A 0xFFFFFFFF 0xFFFFFFFF 0 0) [] []).latch.regs.height.toNat ∧
      (dec (cfg 0x1A 0xFFFFFFFF 0xFFFFFFFF 0 0) [] []).latch.regs.srcLen.toNat < 0x3FFFFFFF800000004) := by decide

/-- SRC_LEN exactly the requirement, DST_LEN one byte short, in each format. -/
theorem witness_DecodeDstTooSmall :
    ((dec (cfg 0x1A 64 64 16384 16383) [] []).latch.regs.format = 0x1A ∧ 16384 = 4 * (dec (cfg 0x1A 64 64 16384 16383) [] []).latch.regs.width.toNat * (dec (cfg 0x1A 64 64 16384 16383) [] []).latch.regs.height.toNat ∧
      16384 ≤ (dec (cfg 0x1A 64 64 16384 16383) [] []).latch.regs.srcLen.toNat ∧
      (dec (cfg 0x1A 64 64 16384 16383) [] []).latch.regs.dstLen.toNat < 4 * (dec (cfg 0x1A 64 64 16384 16383) [] []).latch.regs.width.toNat * (dec (cfg 0x1A 64 64 16384 16383) [] []).latch.regs.height.toNat) ∧
    ((dec (cfg 0x33 64 64 4096 16383) [] []).latch.regs.format = 0x33 ∧ 4096 = 16 * ((dec (cfg 0x33 64 64 4096 16383) [] []).latch.regs.width.toNat / 4) * ((dec (cfg 0x33 64 64 4096 16383) [] []).latch.regs.height.toNat / 4) ∧
      4096 ≤ (dec (cfg 0x33 64 64 4096 16383) [] []).latch.regs.srcLen.toNat ∧
      (dec (cfg 0x33 64 64 4096 16383) [] []).latch.regs.dstLen.toNat < 4 * (dec (cfg 0x33 64 64 4096 16383) [] []).latch.regs.width.toNat * (dec (cfg 0x33 64 64 4096 16383) [] []).latch.regs.height.toNat) := by decide

/-- SRC_LEN one byte short of pixel (1, 1) under T1; pixel (1, 0) before it ends at 68. -/
def shortTexels : State := dec (cfg 0x1A 2 2 71 16) [] []

theorem shortTexels_before : ∀ x' y' : Fin 2, (y'.val < 1 ∨ (y'.val = 1 ∧ x'.val < 1)) →
    Spec.texelOffset shortTexels.params 2 x'.val y'.val + 4 ≤ shortTexels.latch.regs.srcLen.toNat := by decide

theorem witness_DecodeTexelOutOfRange :
    shortTexels.latch.regs.format = 0x1A ∧
    4 * (shortTexels.latch.regs.width.toNat * shortTexels.latch.regs.height.toNat) ≤ shortTexels.latch.regs.srcLen.toNat ∧
    4 * (shortTexels.latch.regs.width.toNat * shortTexels.latch.regs.height.toNat) ≤ shortTexels.latch.regs.dstLen.toNat ∧
    1 < shortTexels.latch.regs.width.toNat ∧ 1 < shortTexels.latch.regs.height.toNat ∧
    shortTexels.latch.regs.srcLen.toNat < Spec.texelOffset shortTexels.params shortTexels.latch.regs.width.toNat 1 1 + 4 ∧
    ∀ x' y', x' < shortTexels.latch.regs.width.toNat → y' < shortTexels.latch.regs.height.toNat → Spec.before x' y' 1 1 →
      Spec.texelOffset shortTexels.params shortTexels.latch.regs.width.toNat x' y' + 4
        ≤ shortTexels.latch.regs.srcLen.toNat :=
  ⟨by decide, by decide, by decide, by decide, by decide, by decide,
    fun x' y' hx hy hb => shortTexels_before ⟨x', hx⟩ ⟨y', hy⟩ hb⟩

/-- Two blocks side by side, with a term that sends block (1, 0) to index 2; SRC_LEN holds two blocks. -/
def shortBlocks : State :=
  { dec (cfg 0x33 8 4 32 128) [] [] with params := { params with bcTerms := ⟨.x, 0x1, .left 1⟩ :: params.bcTerms } }

theorem shortBlocks_before : ∀ (x' : Fin 2) (y' : Fin 1), (y'.val < 0 ∨ (y'.val = 0 ∧ x'.val < 1)) →
    Spec.blockOffset shortBlocks.params 8 x'.val y'.val + 16 ≤ shortBlocks.latch.regs.srcLen.toNat := by decide

theorem witness_DecodeBlockOutOfRange :
    shortBlocks.latch.regs.format = 0x33 ∧
    16 * ((shortBlocks.latch.regs.width.toNat / 4) * (shortBlocks.latch.regs.height.toNat / 4))
      ≤ shortBlocks.latch.regs.srcLen.toNat ∧
    4 * (shortBlocks.latch.regs.width.toNat * shortBlocks.latch.regs.height.toNat) ≤ shortBlocks.latch.regs.dstLen.toNat ∧
    1 < shortBlocks.latch.regs.width.toNat / 4 ∧ 0 < shortBlocks.latch.regs.height.toNat / 4 ∧
    shortBlocks.latch.regs.srcLen.toNat < Spec.blockOffset shortBlocks.params shortBlocks.latch.regs.width.toNat 1 0 + 16 ∧
    ∀ x' y', x' < shortBlocks.latch.regs.width.toNat / 4 → y' < shortBlocks.latch.regs.height.toNat / 4 →
      Spec.before x' y' 1 0 →
      Spec.blockOffset shortBlocks.params shortBlocks.latch.regs.width.toNat x' y' + 16
        ≤ shortBlocks.latch.regs.srcLen.toNat :=
  ⟨by decide, by decide, by decide, by decide, by decide, by decide,
    fun x' y' hx hy hb => shortBlocks_before ⟨x', hx⟩ ⟨y', hy⟩ hb⟩

theorem witness_DecodeUncompressedRaster : Spec.uncChecksPass small ∧ small.undisturbed = true ∧ small.dst.wf = true :=
  ⟨small_checks, by decide, by decide⟩

/-- A 9 x 5 texture of two whole blocks, both at index 0 by T1's compressed test value, with uncovered pixels. -/
def smallBlocks : State := dec (cfg 0x33 9 5 32 180) cb2 [1]

theorem smallBlocks_range : ∀ (x : Fin 2) (y : Fin 1), Spec.blockOffset params 9 x.val y.val + 16 ≤ 32 := by decide

theorem witness_DecodeCompressedRaster :
    Spec.bcChecksPass smallBlocks ∧ smallBlocks.undisturbed = true ∧ smallBlocks.dst.wf = true ∧
      (8 < smallBlocks.latch.regs.width.toNat ∧ 4 * (smallBlocks.latch.regs.width.toNat / 4) ≤ 8) ∧
      (4 < smallBlocks.latch.regs.height.toNat ∧ 4 * (smallBlocks.latch.regs.height.toNat / 4) ≤ 4) :=
  ⟨⟨by decide, by decide, by decide, fun x y hx hy => smallBlocks_range ⟨x, hx⟩ ⟨y, hy⟩⟩,
    by decide, by decide, by decide, by decide⟩

/-- A pattern to tile: column and row in the low lanes. -/
def pattern (x y : Nat) : Word := BitVec.ofNat 32 (x + 256 * y)

/-- SRC holding a 64 x 64 texture tiled by the map (95_test_vectors W6). -/
def tiledSrc : Memory :=
  Memory.writeCells [] ((gridPoints 64 64).flatMap (fun d =>
    pixelCells (Spec.texelOffset params 64 d.1 d.2) (pattern d.1 d.2)))

/-- Its DECODE pending. -/
def tiled : State := { dec (cfg 0x1A 64 64 16384 16384) [] [] with src := tiledSrc }

theorem witness_DecodeInvertsTheTiling :
    UncObligation tiled.params ∧
    (tiled.latch.regs.width.toNat, tiled.latch.regs.height.toNat) ∈ tiled.params.uncSizes ∧
    Spec.uncChecksPass tiled ∧ tiled.undisturbed = true ∧ tiled.dst.wf = true ∧ Memory.wf [] = true ∧
    tiled.src = Memory.writeCells [] ((gridPoints tiled.latch.regs.width.toNat tiled.latch.regs.height.toNat).flatMap (fun d =>
      pixelCells (Spec.texelOffset tiled.params tiled.latch.regs.width.toNat d.1 d.2) (pattern d.1 d.2))) := by
  refine ⟨witness_uncObligation, by decide, ⟨by decide, by decide, by decide, fun x y hx hy => ?_⟩, by decide, by decide,
    by decide, ?_⟩
  rotate_left
  · have hw : tiled.latch.regs.width.toNat = 64 := by decide
    have hh : tiled.latch.regs.height.toNat = 64 := by decide
    have hp : tiled.params = params := by unfold tiled; rfl
    have hs : tiled.src = tiledSrc := by simp only [tiled]
    rw [hw, hh, hp, hs, tiledSrc]
  have h := t1_at x y hx hy
  show 4 * (mapUncompressed params (BitVec.ofNat 32 x) (BitVec.ofNat 32 y) 64).toNat + 4 ≤ 16384
  have hx' : x < 64 := hx
  have hy' : y < 64 := hy
  omega

theorem witness_DecodeZeroSize :
    ((dec (cfg 0x1A 0 64 0 0) [] []).latch.regs.width = 0 ∧ (dec (cfg 0x1A 0 64 0 0) [] []).undisturbed = true ∧
      (dec (cfg 0x1A 0 64 0 0) [] []).latch.regs.format = 0x1A) ∧
    ((dec (cfg 0x33 64 0 0 0) [] []).latch.regs.height = 0 ∧ (dec (cfg 0x33 64 0 0 0) [] []).undisturbed = true ∧
      (dec (cfg 0x33 64 0 0 0) [] []).latch.regs.format = 0x33) ∧
    ((dec (cfg 0 0 0 0 0) [] []).latch.regs.width = 0 ∧ (dec (cfg 0 0 0 0 0) [] []).undisturbed = true ∧
      ¬ ((dec (cfg 0 0 0 0 0) [] []).latch.regs.format = 0x1A ∨ (dec (cfg 0 0 0 0 0) [] []).latch.regs.format = 0x33)) := by
  decide

theorem witness_DecodeOrderIsUnobservable :
    Memory.wf [(0, 1)] = true ∧ 4 * (2 * 2) < 2 ^ 32 ∧
      (Format.unc.rasterCells params [] 2 2).reverse.Perm (Format.unc.rasterCells params [] 2 2) :=
  ⟨by decide, by decide, List.reverse_perm _⟩

/-- SRC and DST disturbed, and DST alone, at the last byte of the region; byte 14 and byte 16 not. -/
theorem witness_DisturbedDecodeIsFree :
    (Spec.uncChecksPass smallDisturbed ∧ smallDisturbed.Inv ∧ smallDisturbed.srcDisturbed = true ∧
      15 ∈ smallDisturbed.dstDisturbed ∧ 16 ∉ smallDisturbed.dstDisturbed) ∧
    (Spec.uncChecksPass smallDstDisturbed ∧ smallDstDisturbed.Inv ∧ smallDstDisturbed.srcDisturbed = false ∧
      15 ∈ smallDstDisturbed.dstDisturbed ∧
      4 * (1 * smallDstDisturbed.latch.regs.width.toNat + 1) + 2 ∉ smallDstDisturbed.dstDisturbed) :=
  ⟨⟨⟨by decide, by decide, by decide, fun x y hx hy => small_range ⟨x, hx⟩ ⟨y, hy⟩⟩, smallDisturbed_inv, by decide, by decide,
    by decide⟩,
   ⟨⟨by decide, by decide, by decide, fun x y hx hy => small_range ⟨x, hx⟩ ⟨y, hy⟩⟩, smallDstDisturbed_inv, by decide,
    by decide, by decide⟩⟩

/-- The two blocks of the 9 x 5 texture disturbed on both sides, and on DST's side alone, at their last byte. -/
def blocksDisturbed (src : Bool) : State :=
  { smallBlocks with srcDisturbed := src, dstDisturbed := [139], hostRule := .anyValue }

theorem blocksDisturbed_inv (src : Bool) : (blocksDisturbed src).Inv where
  srcWf := by decide +revert
  dstWf := by decide +revert
  reportOk := ⟨by decide +revert, by decide +revert, by decide +revert, by decide +revert⟩
  paramsWf := by decide +revert
  disturbedIn := by decide +revert
  refusedIn := by decide +revert

/-- Byte 3 of texel (3, 3) of block (1, 0) is offset 139; pixel (8, 0) and byte 180 on are covered by no block. -/
theorem witness_DisturbedBlockDecodeIsFree :
    ∀ src : Bool, Spec.bcChecksPass (blocksDisturbed src) ∧ (blocksDisturbed src).Inv ∧
      (blocksDisturbed src).srcDisturbed = src ∧ 1 < (blocksDisturbed src).latch.regs.width.toNat / 4 ∧
      4 * ((4 * 0 + 3) * (blocksDisturbed src).latch.regs.width.toNat + (4 * 1 + 3)) + 3 = 139 ∧
      139 ∈ (blocksDisturbed src).dstDisturbed ∧ 138 ∉ (blocksDisturbed src).dstDisturbed ∧
      4 * (0 * (blocksDisturbed src).latch.regs.width.toNat + 8) ∉ (blocksDisturbed src).dstDisturbed ∧
      180 ∉ (blocksDisturbed src).dstDisturbed := by
  intro src
  cases src <;>
    exact ⟨⟨rfl, by decide, by decide, fun x y hx hy => smallBlocks_range ⟨x, hx⟩ ⟨y, hy⟩⟩, blocksDisturbed_inv _, rfl,
      by decide, by decide, by decide, by decide, by decide, by decide⟩

/-- Reset of an idle unit, of one with NOP pending, and of one with a DECODE pending. -/
theorem witness_ResetInput :
    ((host [.reset]).unitTurn = false ∧ (host [.reset]).script = .reset :: [] ∧ (host [.reset]).dst.wf = true) ∧
    ((hostBusy 0 RWRegs.reset [.reset]).unitTurn = false ∧ (hostBusy 0 RWRegs.reset [.reset]).script = .reset :: [] ∧ (hostBusy 0 RWRegs.reset [.reset]).dst.wf = true) ∧
    ((hostBusy 0x0000000C (cfg 0x1A 2 2 72 16) [.reset]).unitTurn = false ∧ (hostBusy 0x0000000C (cfg 0x1A 2 2 72 16) [.reset]).script = .reset :: [] ∧ (hostBusy 0x0000000C (cfg 0x1A 2 2 72 16) [.reset]).dst.wf = true) :=
  ⟨⟨rfl, rfl, rfl⟩, ⟨rfl, rfl, rfl⟩, ⟨rfl, rfl, rfl⟩⟩

theorem witness_StepKeepsInvariant : small.Inv ∧ ∃ t, step small = .next t :=
  ⟨small_inv, _, goesOn_next (step small) (by decide)⟩

theorem witness_ParametersAreFixed : ∃ t, step small = .next t := ⟨_, goesOn_next (step small) (by decide)⟩

/-- A dutiful operation outside the window, at its first byte past the end, and the unit's own turn. -/
theorem witness_DutifulHostNeverDisturbs :
    (hostBusy 0x0000000C (cfg 0x1A 2 2 72 16) [.dstWrite 16 1]).undisturbed = true ∧
    (hostBusy 0x0000000C (cfg 0x1A 2 2 72 16) [.dstWrite 16 1]).dutifulTurn = true ∧
    (hostBusy 0x0000000C (cfg 0x1A 2 2 72 16) [.srcWrite 72 1]).dutifulTurn = true ∧
    (hostBusy 0x0000000C (cfg 0x1A 2 2 72 16) [.srcWrite 71 1]).dutifulTurn = false ∧
    small.undisturbed = true ∧ small.dutifulTurn = true := by decide

end Sys2Proof.Tests
end

section
/-! PROOFS. The statements about 00_scope: the value of a mapper term (R14), and the parameters and the host rule, which no
step changes (R8). -/

namespace Sys2Proof.Machine

/-! ### Mapper terms (00_scope R14) -/

theorem shiftBy_left_toNat (n : Fin 32) (v : Word) : (shiftBy (.left n) v).toNat = v.toNat * 2 ^ n.val % 2 ^ 32 := by
  rw [shiftBy, BitVec.toNat_shiftLeft, Nat.shiftLeft_eq]

theorem shiftBy_right_toNat (n : Fin 32) (v : Word) : (shiftBy (.right n) v).toNat = v.toNat / 2 ^ n.val := by
  rw [shiftBy, BitVec.toNat_ushiftRight, Nat.shiftRight_eq_div_pow]

/-- Settles O23: a term's value is its masked coordinate under `shiftBy`, which is a product mod 2^32 to the left and a
quotient to the right. -/
theorem mapperTermValue : Obligations.MapperTermValue := fun m n x y =>
  ⟨shiftBy_left_toNat n (x &&& m), shiftBy_left_toNat n (y &&& m),
    shiftBy_right_toNat n (x &&& m), shiftBy_right_toNat n (y &&& m)⟩

/-! ### The parameters and the host rule (00_scope R8) -/

/-- What a state holds that is settled before the machine runs: the parameters of 00_scope R8 and the treatment of the host
writes of 70_reset R232 (log entries 3, 6). -/
def State.setting (s : State) : Params × HostRule := (s.params, s.hostRule)

theorem State.setting_eq_iff {s t : State} : t.setting = s.setting ↔ t.params = s.params ∧ t.hostRule = s.hostRule := by
  simp only [State.setting, Prod.mk.injEq]

@[simp] theorem State.writeRaster_setting (cells : List Host.Cell) (s : State) :
    (s.writeRaster cells).setting = s.setting := by
  obtain ⟨d, n, e⟩ := writeRaster_frame cells s
  rw [e, State.setting, State.setting]

@[simp] theorem State.busWrite_setting (off : Nat) (v : Word) (s : State) : (s.busWrite off v).setting = s.setting := by
  obtain e | ⟨-, e⟩ | ⟨g, e⟩ := busWrite_cases off v s <;> rw [e] <;> rfl

@[simp] theorem State.hostDstWrite_setting (a : Nat) (v : Byte) (s : State) :
    (s.hostDstWrite a v).setting = s.setting := by
  unfold State.hostDstWrite
  split <;> rfl

@[simp] theorem State.hostDstRead_setting (a : Nat) (s : State) : (s.hostDstRead a).setting = s.setting := by
  unfold State.hostDstRead
  split <;> rfl

theorem execDecode_keeps_setting {s t : State} (h : execDecode s = .next t) : t.setting = s.setting := by
  obtain ⟨-, rfl⟩ | ⟨f, -, ⟨-, rfl⟩ | ⟨-, -, rfl⟩ | ⟨-, -, off, -, rfl⟩ | ⟨-, -, -, rfl⟩⟩ := execDecode_cases s t h
  · rfl
  · rfl
  · rfl
  · rfl
  · exact State.writeRaster_setting _ s

theorem exec_keeps_setting {i : Instr} {s t : State} (h : exec i s = .next t) : t.setting = s.setting := by
  obtain ⟨-, v, rfl⟩ | ⟨-, v, rfl⟩ | ⟨-, rfl⟩ | ⟨-, hd⟩ := exec_cases i s t h
  · rfl
  · rfl
  · rfl
  · exact execDecode_keeps_setting hd

theorem hostStep_keeps_setting {op : HostOp} {s t : State} (h : hostStep op s = .next t) : t.setting = s.setting := by
  obtain ⟨off, v, -, -, -, rfl⟩ | ⟨off, -, -, -, rfl⟩ | ⟨-, rfl⟩ | ⟨a, v, -, -, -, rfl⟩ | ⟨a, -, -, rfl⟩ |
    ⟨a, v, -, -, -, rfl⟩ | ⟨-, rfl⟩ := hostStep_cases op s t h
  · exact State.busWrite_setting off v s
  · rfl
  · split <;> rfl
  · rfl
  · exact State.hostDstRead_setting a s
  · exact State.hostDstWrite_setting a v s
  · rfl

theorem step_keeps_setting {s t : State} (h : step s = .next t) : t.setting = s.setting := by
  obtain ⟨-, i, -, he⟩ | ⟨-, -, rfl⟩ | ⟨-, -, rfl⟩ | ⟨-, op, rest, -, ho⟩ := step_cases s t h
  · exact exec_keeps_setting he
  · rfl
  · rfl
  · exact (hostStep_keeps_setting ho).trans rfl

/-- Settles O57: the unit's turn and the host's turn both keep the state's setting. -/
theorem parametersAreFixed : Obligations.ParametersAreFixed := fun _ _ h =>
  State.setting_eq_iff.1 (step_keeps_setting h)

end Sys2Proof.Machine
end

section
/-! PROOFS. The statements about 10_state: the register file and its bus (R21 to R38), the command life cycle (R39 to R41),
the reset state (R43), and the invariant every step keeps. -/

namespace Sys2Proof.Machine

/-! ### Decoding a command's word (30_encoding R76, R77, R87) -/

theorem decode_encode (i : Instr) : Sys2Proof.decode (encode i) = .instr i := by cases i <;> decide

theorem word_eq_fields (w : Word) : w = resField w ++ (BitVec.ofBool (mField w) ++ opField w) := by
  refine BitVec.eq_of_getLsbD_eq fun i hi => ?_
  rw [BitVec.getLsbD_append, BitVec.getLsbD_append]
  simp only [resField, mField, opField, BitVec.getLsbD_extractLsb', BitVec.getLsbD_ofBool]
  by_cases hop : i < 8
  · simp [hop, Nat.lt_succ_of_lt hop]
  by_cases hm : i = 8
  · simp [hm]
  have hres : ¬ i < 1 + 8 := by omega
  have hlast : i - (1 + 8) < 23 := by omega
  rw [if_neg hres, Nat.add_sub_cancel' (Nat.not_lt.1 hres), decide_eq_true hlast, Bool.true_and]

/-- The opcode map is injective (30_encoding R77). -/
theorem encode_of_instrOfOp {op : Nat} {m : Bool} {i : Instr} (h : instrOfOp op m = some i) :
    encode i = 0#23 ++ (BitVec.ofBool m ++ BitVec.ofNat 8 op) := by
  unfold instrOfOp at h
  split at h
  case h_15 => cases h
  all_goals cases h; rfl

theorem encode_of_decode {w : Word} {i : Instr} (h : Sys2Proof.decode w = .instr i) : encode i = w := by
  unfold Sys2Proof.decode at h
  split at h
  · cases h
  · rename_i hres
    split at h
    · cases h
    · split at h
      · rename_i j hj
        cases h
        have hres : resField w = 0#23 := Decidable.not_not.1 hres
        rw [encode_of_instrOfOp hj, BitVec.ofNat_toNat, BitVec.setWidth_eq, ← hres]
        exact (word_eq_fields w).symm
      · cases h

theorem tableWord_toNat (w : Word) : tableWord 32 w.toNat = w := by
  rw [tableWord, Nat.mod_eq_of_lt w.isLt, BitVec.ofNat_toNat, BitVec.setWidth_eq]

/-! ### The register map and the bus (10_state R21, R38) -/

@[simp] theorem busRead_offset (r : Reg) (s : State) : s.busRead r.offset = s.readReg r := by
  simp only [State.busRead, Reg.ofOffset_offset]

@[simp] theorem busWrite_offset (r : Reg) (v : Word) (s : State) : s.busWrite r.offset v = s.writeReg r v := by
  simp only [State.busWrite, Reg.ofOffset_offset]

theorem writeReg_ro {r : Reg} (h : r.access = .ro) (v : Word) (s : State) : s.writeReg r v = s := by
  simp only [State.writeReg, h]

theorem writeReg_rw {r : Reg} (h : r.access = .rw) (v : Word) (s : State) :
    s.writeReg r v = { s with regs := s.regs.set r v } := by
  simp only [State.writeReg, h]

theorem writeReg_cmd (v : Word) (s : State) : s.writeReg .cmd v = if s.pending then s else s.issue v := rfl

theorem ofOffset_eq_none {off : Nat} (h : ∀ r : Reg, r.offset ≠ off) : Reg.ofOffset off = none :=
  List.find?_eq_none.2 fun r _ => by simpa using h r

theorem busRead_unnamed {off : Nat} (h : ∀ r : Reg, r.offset ≠ off) (s : State) : s.busRead off = 0 := by
  simp only [State.busRead, ofOffset_eq_none h]

theorem busWrite_unnamed {off : Nat} (h : ∀ r : Reg, r.offset ≠ off) (v : Word) (s : State) :
    s.busWrite off v = s := by
  simp only [State.busWrite, ofOffset_eq_none h]

/-! ### RW registers read back (10_state R29 to R33, R36) -/

theorem readReg_set_same {r : Reg} (h : r.access = .rw) (v : Word) (s : State) :
    State.readReg r { s with regs := s.regs.set r v } = v := by
  cases r
  case blk k => exact Vector.getElem_set_self k.isLt
  case format | width | height | srcLen | dstLen | arg0 | arg1 | arg2 => rfl
  all_goals cases h

theorem readReg_set_other {r r' : Reg} (hne : r' ≠ r) (v : Word) (s : State) :
    State.readReg r' { s with regs := s.regs.set r v } = s.readReg r' := by
  cases r
  case blk k =>
    cases r'
    case blk j => exact Vector.getElem_set_ne k.isLt j.isLt (fun e => hne (congrArg Reg.blk (Fin.ext e.symm)))
    all_goals rfl
  case format | width | height | srcLen | dstLen | arg0 | arg1 | arg2 =>
    revert hne
    cases r' <;> simp [State.readReg, State.statusWord, RWRegs.set]
  all_goals rfl

/-- Settles O13: the bus reaches exactly the register at its offset, and `RWRegs.set` stores an RW register and no other. -/
theorem registerWrites : Obligations.RegisterWrites := by
  refine fun s r v => ⟨fun hrw => ?_, fun hro => ?_⟩
  · rw [busWrite_offset, writeReg_rw hrw]
    refine ⟨?_, fun r' hne => ?_, _, rfl⟩
    · rw [busRead_offset, readReg_set_same hrw]
    · rw [busRead_offset, busRead_offset, readReg_set_other hne]
  · rw [busWrite_offset, writeReg_ro hro]

/-! ### STATUS and ID (10_state R22, R24) -/

theorem busRead_status (s : State) : s.busRead 0x004 = s.statusWord := busRead_offset .status s

theorem statusWord_toNat (s : State) :
    s.statusWord.toNat = s.pending.toNat + 2 * s.done.toNat + 4 * s.err.toNat + 256 * s.errCode.code.toNat := by
  have fields : ∀ (c : BitVec 4) (e d p : Bool),
      (0#20 ++ c ++ 0#5 ++ BitVec.ofBool e ++ BitVec.ofBool d ++ BitVec.ofBool p).toNat =
        p.toNat + 2 * d.toNat + 4 * e.toNat + 256 * c.toNat := by decide
  exact fields s.errCode.code s.err s.done s.pending

/-- Settles O12: STATUS is the sum of its fields, and read-only. -/
theorem statusFields : Obligations.StatusFields := by
  intro s
  refine ⟨?_, fun v => ?_⟩
  · rw [busRead_status, statusWord_toNat]
    cases s.errCode <;> rfl
  · exact (busWrite_offset .status v s).trans (writeReg_ro rfl v s)

/-- Settles O14: the read of ID does not look at the state. -/
theorem idIsConstant : Obligations.IdIsConstant := fun s t _ => ⟨busRead_offset .id s, busRead_offset .id t⟩

/-- Settles O15: no register stands at an unnamed offset, and the fields of STATUS leave bits 7:3 and 31:12 out. -/
theorem reservedSpace : Obligations.ReservedSpace := by
  intro s v
  have hp := s.pending.toNat_le
  have hd := s.done.toNat_le
  have he := s.err.toNat_le
  have hc := s.errCode.code.isLt
  refine ⟨fun off h => ⟨busRead_unnamed h s, busWrite_unnamed h v s⟩, ?_, ?_, fun r hr => ?_⟩
  · rw [busRead_status, statusWord_toNat]; omega
  · rw [busRead_status, statusWord_toNat]; omega
  · exact ((registerWrites s r v).1 hr).1

/-! ### The two turns (10_state R40; log entry 1) -/

theorem unitTurn_of_idle {s : State} (h : s.pending = false) : s.unitTurn = false := by
  rw [State.unitTurn, h, Bool.false_and]

theorem unitTurn_of_due {s : State} (hp : s.pending = true) (hd : s.delay = 0) : s.unitTurn = true := by
  rw [State.unitTurn, hp, hd]
  split <;> rfl

theorem unitTurn_of_op {s : State} {op : HostOp} {rest : List HostOp} (hs : s.script = op :: rest)
    (hw : op ≠ .wait) (hd : s.delay ≠ 0) : s.unitTurn = false := by
  have hd' : (s.delay == 0) = false := beq_false_of_ne hd
  rw [State.unitTurn, hs, hd']
  cases op
  case wait => exact absurd rfl hw
  all_goals exact Bool.and_false _

/-- While it is not the unit's turn, a pending command has the host's next operation before it, and delay left for it. -/
theorem hostTurn_of_pending {s : State} (hp : s.pending = true) (hu : s.unitTurn = false) :
    ∃ op rest, s.script = op :: rest ∧ op ≠ .wait ∧ s.delay ≠ 0 := by
  rw [State.unitTurn, hp, Bool.true_and] at hu
  split at hu
  · cases hu
  · cases hu
  · rename_i op rest hw hs
    exact ⟨op, rest, hs, hw, by simpa using hu⟩

theorem step_unit {s : State} (hu : s.unitTurn = true) : step s = perform s := if_pos hu

theorem perform_instr {s : State} {i : Instr} (h : Sys2Proof.decode s.latch.cmd = .instr i) : perform s = exec i s := by
  rw [perform, h]

theorem perform_illegal {s : State} {e : Illegal} (h : Sys2Proof.decode s.latch.cmd = .illegal e) :
    perform s = .next s.raiseIllegal := by
  rw [perform, h]

/-- Settles O3: the word withFetchWord issues is due at once and decodes to the command it encodes. -/
theorem stepRunsThePendingCommand : Obligations.StepRunsThePendingCommand := by
  have run : ∀ (s : State) (i : Instr), s.unitTurn = true → Sys2Proof.decode s.latch.cmd = .instr i →
      step s = exec i s := fun s i hu hd => (step_unit hu).trans (perform_instr hd)
  refine ⟨run, fun s i => ?_⟩
  have hw : s.withFetchWord 32 (encode i).toNat = s.issueWith (encode i) 0 := by
    rw [State.withFetchWord, tableWord_toNat]
  rw [hw]
  exact run _ i (unitTurn_of_due rfl rfl) (decode_encode i)

/-- Settles O6: either way the step is the host's, and what it leaves is `State.writeReg` at CMD. -/
theorem cmdWriteIssuesOrIsDropped : Obligations.CmdWriteIssuesOrIsDropped := by
  intro s w rest hs
  have write : s.unitTurn = false →
      step s = .next (State.writeReg .cmd w { s with script := rest, delay := s.delay - 1 }) := by
    intro hu
    rw [step_host s _ rest hu hs, hostStep, admitReg_next _ _ _ (by decide) rfl rfl]
    exact congrArg Host.Outcome.next (busWrite_offset .cmd w _)
  refine ⟨fun hp => ?_, fun hp hd => ?_, busRead_offset .cmd s⟩
  · rw [write (unitTurn_of_idle hp), writeReg_cmd, if_neg (by simp [hp])]
    exact ⟨_, _, rfl⟩
  · rw [write (unitTurn_of_op hs nofun hd), writeReg_cmd, if_pos hp]

/-! ### What a command does and leaves (10_state R39 to R41) -/

theorem writeRaster_setRegs (cells : List Host.Cell) (s : State) (g : RWRegs) :
    State.writeRaster cells { s with regs := g } = { s.writeRaster cells with regs := g } := by
  unfold State.writeRaster
  split <;> rfl

/-- A command completes, and does the same whatever the RW registers hold: it reads its operands from the latch. -/
theorem exec_setRegs (i : Instr) (s : State) (g : RWRegs) :
    ∃ t, exec i s = .next t ∧ exec i { s with regs := g } = .next { t with regs := g } := by
  cases i
  case decode =>
    simp only [exec, execDecode, writeRaster_setRegs]
    split
    · exact ⟨_, rfl, rfl⟩
    · split
      · exact ⟨_, rfl, rfl⟩
      · split
        · exact ⟨_, rfl, rfl⟩
        · split <;> exact ⟨_, rfl, rfl⟩
  all_goals exact ⟨_, rfl, rfl⟩

theorem exec_next (i : Instr) (s : State) : ∃ t, exec i s = .next t := by
  obtain ⟨t, ht, -⟩ := exec_setRegs i s s.regs
  exact ⟨t, ht⟩

/-- Settles O8: neither a command nor the error of an illegal word looks at the RW registers. -/
theorem performReadsOnlyTheLatch : Obligations.PerformReadsOnlyTheLatch := by
  intro s g
  cases hd : Sys2Proof.decode s.latch.cmd with
  | instr i =>
    rw [perform_instr hd, perform_instr (s := { s with regs := g }) hd]
    exact exec_setRegs i s g
  | illegal e =>
    rw [perform_illegal hd, perform_illegal (s := { s with regs := g }) hd]
    exact ⟨_, rfl, rfl⟩

/-- What no command writes (10_state R41). -/
def State.kept (s : State) : RWRegs × Latch × Memory × Params × List HostOp × List Observation :=
  (s.regs, s.latch, s.src, s.params, s.script, s.observed)

/-- DECODE ends with an error, or writes the raster of one of the two formats inside the DST length it checked. -/
theorem execDecode_ends {s t : State} (h : execDecode s = .next t) :
    (∃ c n, c ≠ ErrCode.none ∧ t = s.raiseError c n) ∨
    ∃ f : Format, dstReq s.latch.regs.width.toNat s.latch.regs.height.toNat ≤ s.latch.regs.dstLen.toNat ∧
      t = (s.writeRaster (f.rasterCells s.params s.src s.latch.regs.width.toNat s.latch.regs.height.toNat)).finish := by
  obtain ⟨-, e⟩ | ⟨f, -, ⟨-, e⟩ | ⟨-, -, e⟩ | ⟨-, -, off, -, e⟩ | ⟨-, hd, -, e⟩⟩ := execDecode_cases s t h
  · exact .inl ⟨_, _, by decide, e⟩
  · exact .inl ⟨_, _, by decide, e⟩
  · exact .inl ⟨_, _, by decide, e⟩
  · exact .inl ⟨_, _, by decide, e⟩
  · exact .inr ⟨f, hd, e⟩

theorem execDecode_completes {s t : State} (h : execDecode s = .next t) :
    t.pending = false ∧ t.done = true ∧ t.kept = s.kept := by
  obtain ⟨c, n, -, rfl⟩ | ⟨f, -, rfl⟩ := execDecode_ends h
  · exact ⟨rfl, rfl, rfl⟩
  · obtain ⟨d, n, e⟩ := writeRaster_frame (f.rasterCells s.params s.src _ _) s
    rw [e]
    exact ⟨rfl, rfl, rfl⟩

theorem exec_completes {i : Instr} {s t : State} (h : exec i s = .next t) :
    t.pending = false ∧ t.done = true ∧ t.kept = s.kept := by
  obtain ⟨-, v, rfl⟩ | ⟨-, v, rfl⟩ | ⟨-, rfl⟩ | ⟨-, hd⟩ := exec_cases i s t h
  · exact ⟨rfl, rfl, rfl⟩
  · exact ⟨rfl, rfl, rfl⟩
  · exact ⟨rfl, rfl, rfl⟩
  · exact execDecode_completes hd

/-- The perform step of any word, legal or not, ends the command (10_state R40 b). -/
theorem perform_completes (s : State) : ∃ t, perform s = .next t ∧ t.pending = false ∧ t.done = true := by
  cases hd : Sys2Proof.decode s.latch.cmd with
  | instr i =>
    obtain ⟨t, ht⟩ := exec_next i s
    obtain ⟨hp, hdone, -⟩ := exec_completes ht
    exact ⟨t, (perform_instr hd).trans ht, hp, hdone⟩
  | illegal e => exact ⟨_, perform_illegal hd, rfl, rfl⟩

theorem writeRaster_result_tex (cells : List Host.Cell) (s : State) :
    (s.writeRaster cells).result = s.result ∧ (s.writeRaster cells).tex = s.tex := by
  obtain ⟨d, n, e⟩ := writeRaster_frame cells s
  rw [e]
  exact ⟨rfl, rfl⟩

theorem execDecode_result_tex {s t : State} (h : execDecode s = .next t) : t.result = s.result ∧ t.tex = s.tex := by
  obtain ⟨c, n, -, rfl⟩ | ⟨f, -, rfl⟩ := execDecode_ends h
  · exact ⟨rfl, rfl⟩
  · exact writeRaster_result_tex _ s

/-- The cells of a raster that passed the DST check lie inside DST (42_format_decoder R154). -/
theorem rasterCells_lt_space (f : Format) (p : Params) (src : Memory) {w h : Nat} {dstLen : Word}
    (hd : dstReq w h ≤ dstLen.toNat) : ∀ c ∈ f.rasterCells p src w h, c.1 < byteSpaceBytes := fun c hc =>
  Nat.lt_trans (Nat.lt_of_lt_of_le (rasterCells_lt f p src w h c hc) hd) dstLen.isLt

/-- DECODE leaves every DST byte past its output region that the host left alone (20_memory R67). -/
theorem execDecode_dst_past_region {s t : State} (hs : s.Inv) (h : execDecode s = .next t) {a : Nat}
    (ha : 4 * (s.latch.regs.width.toNat * s.latch.regs.height.toNat) ≤ a) (hd : a ∉ s.dstDisturbed) :
    t.dst.read a = s.dst.read a := by
  obtain ⟨c, n, -, rfl⟩ | ⟨f, hlen, rfl⟩ := execDecode_ends h
  · rfl
  · obtain ⟨-, -, unwritten⟩ := writeRaster_read _ s hs.dstWf (rasterCells_lt_space f s.params s.src hlen)
      (rasterCells_distinct f s.params s.src _ _) hs.disturbedIn a
    refine unwritten hd fun c hc => ?_
    have hlt := rasterCells_lt f s.params s.src _ _ c hc
    rw [dstReq, Nat.mul_assoc] at hlt
    omega

theorem mem_of_writesResult {i : Instr} (h : writesResult i = true) :
    i ∈ [Instr.mapu, .mapc, .exp565, .dtex, .dtexCo, .pack, .bswap32, .bswap16, .issup] := by
  revert h
  cases i <;> decide

theorem mem_of_writesTex {i : Instr} (h : writesTex i = true) : i ∈ [Instr.dcol, .dalpha, .dblk] := by
  revert h
  cases i <;> decide

/-- Settles O9: `State.kept` holds what no command writes; the class of the command says which result it writes. -/
theorem commandsWriteOnlyTheirResults : Obligations.CommandsWriteOnlyTheirResults := by
  intro i s hs
  obtain ⟨t, ht⟩ := exec_next i s
  obtain ⟨hp, hd, hkept⟩ := exec_completes ht
  simp only [State.kept, Prod.mk.injEq] at hkept
  obtain ⟨hregs, hlatch, hsrc, hparams, hscript, hobs⟩ := hkept
  refine ⟨t, ht, hp, hd, hregs, hlatch, hsrc, hparams, hscript, hobs, ?_⟩
  obtain ⟨hw, v, rfl⟩ | ⟨hw, v, rfl⟩ | ⟨-, rfl⟩ | ⟨rfl, hdec⟩ := exec_cases i s t ht
  · exact ⟨.inr (mem_of_writesResult hw), .inl rfl, .inl rfl⟩
  · exact ⟨.inl rfl, .inr (mem_of_writesTex hw), .inl rfl⟩
  · exact ⟨.inl rfl, .inl rfl, .inl rfl⟩
  · obtain ⟨hres, htex⟩ := execDecode_result_tex hdec
    exact ⟨.inl hres, .inl htex, .inr ⟨rfl, fun a ha hn => execDecode_dst_past_region hs hdec ha hn⟩⟩

/-! ### Reset (10_state R43, 70_reset R220 to R223) -/

theorem readReg_reset (r : Reg) : State.reset.readReg r = if r = .id then 0x47545801 else 0 := by
  cases r
  case blk k => revert k; decide
  case tex k => revert k; decide
  all_goals rfl

/-- Settles O54: each register of the map, read in the reset state. -/
theorem resetValues : Obligations.ResetValues :=
  ⟨fun r => (busRead_offset r _).trans (readReg_reset r), rfl, rfl⟩

/-- The reset input leaves every register as the power-on reset does. -/
theorem readReg_resetUnit (r : Reg) (s : State) : s.resetUnit.readReg r = State.reset.readReg r := by
  cases r <;> rfl

theorem decodePending_iff (s : State) : s.decodePending = true ↔ s.pending = true ∧ s.latch.cmd = 0x0000000C := by
  rw [State.decodePending, Bool.and_eq_true, beq_iff_eq]
  refine and_congr_right fun _ => ⟨fun h => (encode_of_decode h).symm, fun h => ?_⟩
  rw [h]
  exact decode_encode .decode

theorem resetUnit_dst (s : State) : s.resetUnit.dst =
    if s.decodePending then (s.havocDst (List.range (min s.latch.regionBytes byteSpaceBytes))).dst else s.dst := by
  unfold State.resetUnit
  split <;> rfl

theorem resetUnit_src (s : State) : s.resetUnit.src = s.src := by
  unfold State.resetUnit
  split <;> rfl

/-- The offsets of a region that DST has. -/
theorem lt_space_of_mem_region {n : Nat} : ∀ a ∈ List.range (min n byteSpaceBytes), a < byteSpaceBytes := fun _ ha =>
  Nat.lt_of_lt_of_le (List.mem_range.1 ha) (Nat.min_le_right _ _)

theorem resetUnit_dst_in_region {s : State} (hwf : s.dst.wf = true) (hp : s.decodePending = true) {a : Nat}
    (hspace : a < byteSpaceBytes) (ha : a < s.latch.regionBytes) : ∃ n, s.resetUnit.dst.read a = Config.freeByte n := by
  rw [resetUnit_dst, if_pos hp]
  obtain ⟨free, -⟩ := havocDst_read _ s hwf lt_space_of_mem_region a
  obtain ⟨n, -, -, hn⟩ := free (List.mem_range.2 (Nat.lt_min.2 ⟨ha, hspace⟩))
  exact ⟨n, hn⟩

theorem resetUnit_dst_past_region {s : State} (hwf : s.dst.wf = true) {a : Nat} (ha : s.latch.regionBytes ≤ a) :
    s.resetUnit.dst.read a = s.dst.read a := by
  rw [resetUnit_dst]
  split
  · obtain ⟨-, other⟩ := havocDst_read _ s hwf lt_space_of_mem_region a
    refine other fun hm => ?_
    exact Nat.not_lt.2 ha (Nat.lt_of_lt_of_le (List.mem_range.1 hm) (Nat.min_le_left _ _))
  · rfl

/-- Settles O53: the host's reset is `State.resetUnit`, whose free bytes are those of a cancelled DECODE's region. -/
theorem resetInput : Obligations.ResetInput := by
  intro s rest hu hs hwf
  let s' : State := { s with script := rest, delay := s.delay - 1 }
  have pending : s'.decodePending = true ↔ s.pending = true ∧ s.latch.cmd = 0x0000000C := decodePending_iff s'
  refine ⟨s'.resetUnit, step_host s .reset rest hu hs, fun r => ?_, rfl, rfl, resetUnit_src s', fun hn => ?_,
    fun hp a hspace ha => resetUnit_dst_in_region (s := s') hwf (pending.2 hp) hspace ha,
    fun a ha => resetUnit_dst_past_region (s := s') hwf ha⟩
  · rw [busRead_offset, readReg_resetUnit, readReg_reset]
  · rw [resetUnit_dst, if_neg (mt pending.1 hn)]

/-! ### The invariant (10_state R25 to R27, 20_memory R50, 70_reset R232) -/

/-- What the invariant reads of a state, the report in STATUS and ERRINFO last. -/
def State.guarded (s : State) :
    (Memory × Memory × Params × Bool × List Nat × HostRule) × Bool × Bool × Bool × ErrCode × Word × Word :=
  ((s.src, s.dst, s.params, s.srcDisturbed, s.dstDisturbed, s.hostRule),
    s.pending, s.done, s.err, s.errCode, s.errInfo0, s.errInfo1)

/-- Two states that agree on what the invariant reads meet it together. -/
theorem State.Inv.congr {s t : State} (h : s.Inv) (e : t.guarded = s.guarded) : t.Inv := by
  obtain ⟨hsrc, hdst, ⟨hbusy, hdone, hclean, hcoded⟩, hparams, hin, hrefused⟩ := h
  cases s
  cases t
  simp only [State.guarded, Prod.mk.injEq] at e
  obtain ⟨⟨rfl, rfl, rfl, rfl, rfl, rfl⟩, rfl, rfl, rfl, rfl, rfl, rfl⟩ := e
  exact ⟨hsrc, hdst, ⟨hbusy, hdone, hclean, hcoded⟩, hparams, hin, hrefused⟩

theorem State.Inv.setDst {s : State} (h : s.Inv) {d : Memory} (hd : d.wf = true) (n : Nat) :
    State.Inv { s with dst := d, draws := n } :=
  { h with dstWf := hd, reportOk := { h.reportOk with } }

/-! #### The unit's turn -/

theorem State.Inv.finish {s : State} (h : s.Inv) : s.finish.Inv :=
  { h with reportOk := { h.reportOk with busyClean := nofun, errDone := fun _ => rfl } }

theorem State.Inv.raiseError {s : State} (h : s.Inv) {c : ErrCode} (hc : c ≠ .none) (n : BitVec 64) :
    (s.raiseError c n).Inv :=
  { h with reportOk := ⟨nofun, fun _ => rfl, nofun, fun _ => hc⟩ }

theorem State.Inv.finishResult {s : State} (h : s.Inv) (v : Word) : (s.finishResult v).Inv :=
  (h.congr (t := { s with result := v }) rfl).finish

theorem State.Inv.finishTex {s : State} (h : s.Inv) (v : Vector Word 16) : (s.finishTex v).Inv :=
  (h.congr (t := { s with tex := v }) rfl).finish

theorem State.Inv.writeRaster {s : State} (h : s.Inv) {cells : List Host.Cell}
    (hc : ∀ c ∈ cells, c.1 < byteSpaceBytes) : (s.writeRaster cells).Inv := by
  have hwf := writeRaster_wf cells s h.dstWf hc h.disturbedIn
  obtain ⟨d, n, e⟩ := writeRaster_frame cells s
  rw [e] at hwf ⊢
  exact h.setDst hwf n

theorem execDecode_keeps_inv {s t : State} (hs : s.Inv) (h : execDecode s = .next t) : t.Inv := by
  obtain ⟨c, n, hc, rfl⟩ | ⟨f, hlen, rfl⟩ := execDecode_ends h
  · exact hs.raiseError hc n
  · exact (hs.writeRaster (rasterCells_lt_space f s.params s.src hlen)).finish

theorem exec_keeps_inv {i : Instr} {s t : State} (hs : s.Inv) (h : exec i s = .next t) : t.Inv := by
  obtain ⟨-, v, rfl⟩ | ⟨-, v, rfl⟩ | ⟨-, rfl⟩ | ⟨-, hd⟩ := exec_cases i s t h
  · exact hs.finishResult v
  · exact hs.finishTex v
  · exact hs.finish
  · exact execDecode_keeps_inv hs hd

/-! #### The host's turn -/

theorem State.Inv.issue {s : State} (h : s.Inv) (w : Word) : (s.issue w).Inv :=
  { h with
    reportOk := ⟨fun _ => ⟨rfl, rfl⟩, nofun, fun _ => ⟨rfl, rfl, rfl⟩, nofun⟩
    disturbedIn := nofun
    refusedIn := fun _ => rfl }

theorem State.Inv.busWrite {s : State} (h : s.Inv) (off : Nat) (v : Word) : (s.busWrite off v).Inv := by
  obtain e | ⟨-, e⟩ | ⟨g, e⟩ := busWrite_cases off v s <;> rw [e]
  · exact h
  · exact h.issue v
  · exact h.congr rfl

theorem State.Inv.hostSrcWrite {s : State} (h : s.Inv) {a : Nat} (ha : a < byteSpaceBytes)
    (hr : s.hostRule = .refuse → s.inSrcWindow a = false) (v : Byte) : (s.hostSrcWrite a v).Inv :=
  { h with
    srcWf := Memory.write_wf s.src a v h.srcWf ha
    reportOk := { h.reportOk with }
    refusedIn := fun e => by simpa [State.undisturbed, hr e] using h.refusedIn e }

/-- Inside the window the write disturbs the DECODE, which the host rule `refuse` excludes. -/
theorem State.Inv.hostDstWrite {s : State} (h : s.Inv) {a : Nat} (ha : a < byteSpaceBytes)
    (hr : s.hostRule = .refuse → s.inDstWindow a = false) (v : Byte) : (s.hostDstWrite a v).Inv := by
  unfold State.hostDstWrite
  split
  case isTrue hw =>
    have hfree : (s.havocDst [a]).Inv := h.setDst (havocDst_wf [a] s h.dstWf (by simpa using ha)) _
    have hin : ∀ b ∈ s.dstDisturbed ++ [a], b < byteSpaceBytes := by
      simpa [or_imp, forall_and] using ⟨h.disturbedIn, ha⟩
    exact
      { hfree with
        reportOk := { hfree.reportOk with }
        disturbedIn := hin
        refusedIn := fun e => absurd hw (by simp [hr e]) }
  case isFalse => exact h.setDst (Memory.write_wf s.dst a v h.dstWf ha) s.draws

theorem State.Inv.hostDstRead {s : State} (h : s.Inv) (a : Nat) : (s.hostDstRead a).Inv := by
  unfold State.hostDstRead
  split <;> exact h.congr rfl

theorem State.Inv.resetUnit {s : State} (h : s.Inv) : s.resetUnit.Inv where
  srcWf := (resetUnit_src s).symm ▸ h.srcWf
  dstWf := by
    rw [resetUnit_dst]
    split
    · exact havocDst_wf _ s h.dstWf lt_space_of_mem_region
    · exact h.dstWf
  reportOk := ⟨nofun, nofun, fun _ => ⟨rfl, rfl, rfl⟩, nofun⟩
  paramsWf := h.paramsWf
  disturbedIn := nofun
  refusedIn := fun _ => rfl

theorem hostStep_keeps_inv {op : HostOp} {s t : State} (hs : s.Inv) (h : hostStep op s = .next t) : t.Inv := by
  obtain ⟨off, v, -, -, -, rfl⟩ | ⟨off, -, -, -, rfl⟩ | ⟨-, rfl⟩ | ⟨a, v, -, ha, hr, rfl⟩ | ⟨a, -, -, rfl⟩ |
    ⟨a, v, -, ha, hr, rfl⟩ | ⟨-, rfl⟩ := hostStep_cases op s t h
  · exact hs.busWrite off v
  · exact hs.congr rfl
  · split <;> exact hs.congr rfl
  · exact hs.hostSrcWrite ha hr v
  · exact hs.hostDstRead a
  · exact hs.hostDstWrite ha hr v
  · exact hs.resetUnit

/-- Settles O55: the unit's turn and the host's turn both keep the invariant. -/
theorem stepKeepsInvariant : Obligations.StepKeepsInvariant := by
  intro s t hs h
  obtain ⟨-, i, -, he⟩ | ⟨-, -, rfl⟩ | ⟨-, -, rfl⟩ | ⟨-, op, rest, -, ho⟩ := step_cases s t h
  · exact exec_keeps_inv hs he
  · exact hs.raiseError (by decide) _
  · exact hs
  · exact hostStep_keeps_inv (hs.congr (t := { s with script := rest, delay := s.delay - 1 }) rfl) ho

/-! #### The state after reset -/

theorem sizeAllowed_64 : sizeAllowed (64, 64) = true := by decide

/-- The parameters at reset meet 00_scope R8 whatever the open ones are: the filters of `Config.params` see to it. -/
theorem Config.params_wf : Config.params.wf = true := by
  have sizes : Config.params.uncSizes.all sizeAllowed = true := by
    simp [Config.params, sizeAllowed_64]
  have once : ∀ t ∈ fixedBcTerms, Config.params.bcTerms.count t = 1 := by
    intro t ht
    have hfixed : fixedBcTerms.count t = 1 := by revert t; decide
    have hother : (Config.otherBcTerms.filter (fun t => !fixedBcTerms.contains t)).count t = 0 :=
      List.count_eq_zero.2 (by simp [ht])
    rw [Config.params, List.count_append, hfixed, hother]
  simp only [Params.wf, sizes, Bool.and_eq_true, List.all_eq_true, beq_iff_eq]
  exact ⟨⟨⟨by simp [Config.params], trivial⟩, once⟩, by decide⟩

/-- Settles O56: reset has blank memories, a clean report and nothing disturbed, and its parameters are within R8. -/
theorem resetHasInvariant : Obligations.ResetHasInvariant where
  srcWf := Memory.wf_nil
  dstWf := Memory.wf_nil
  reportOk := ⟨nofun, nofun, fun _ => ⟨rfl, rfl, rfl⟩, nofun⟩
  paramsWf := Config.params_wf
  disturbedIn := nofun
  refusedIn := fun _ => rfl

/-! ### Weak fairness (10_state R40 d; log entry 1) -/

/-- What the host's access is judged by: the pending command with its windows, and the host rule. -/
def State.window (s : State) : Bool × Latch × HostRule := (s.pending, s.latch, s.hostRule)

theorem HostOp.admitted_congr {s t : State} (op : HostOp) (e : t.window = s.window) : op.admitted t = op.admitted s := by
  cases s
  cases t
  simp only [State.window, Prod.mk.injEq] at e
  obtain ⟨rfl, rfl, rfl⟩ := e
  rfl

/-- An access the bus admits goes on, and a write the host rule does not refuse. -/
theorem hostStep_of_admitted {op : HostOp} {s : State} (h : op.admitted s = true) : ∃ t, hostStep op s = .next t := by
  have rule : ∀ b : Bool, (!(b && s.hostRule == .refuse)) = true → b = false ∨ s.hostRule = .anyValue := by
    intro b hb
    cases hr : s.hostRule with
    | anyValue => exact .inr rfl
    | refuse => exact .inl (by simpa [hr] using hb)
  obtain ⟨hwf, hop⟩ := Bool.and_eq_true_iff.1 h
  cases op with
  | wr off width v =>
    simp only [HostOp.wf, Bool.and_eq_true, decide_eq_true_eq, beq_iff_eq] at hwf
    obtain ⟨⟨hoff, hwidth⟩, halign⟩ := hwf
    exact ⟨_, admitReg_next off width _ hoff hwidth halign⟩
  | rd off width =>
    simp only [HostOp.wf, Bool.and_eq_true, decide_eq_true_eq, beq_iff_eq] at hwf
    obtain ⟨⟨hoff, hwidth⟩, halign⟩ := hwf
    exact ⟨_, admitReg_next off width _ hoff hwidth halign⟩
  | wait => exact ⟨_, rfl⟩
  | srcWrite a v =>
    exact ⟨_, (if_pos (of_decide_eq_true hwf)).trans (admitWrite_next s _ _ _ (rule _ hop))⟩
  | dstRead a => exact ⟨_, if_pos (of_decide_eq_true hwf)⟩
  | dstWrite a v =>
    exact ⟨_, (if_pos (of_decide_eq_true hwf)).trans (admitWrite_next s _ _ _ (rule _ hop))⟩
  | reset => exact ⟨_, rfl⟩

/-- The pending command and what decides when the unit's turn comes. -/
def State.schedule (s : State) : (Bool × Latch × HostRule) × List HostOp × Nat := (s.window, s.script, s.delay)

/-- While a command is pending, only a reset takes it away, and only a standing WAIT gives the host more to do. -/
theorem hostStep_keeps_schedule {op : HostOp} {s t : State} (hp : s.pending = true) (hr : op ≠ .reset) (hw : op ≠ .wait)
    (h : hostStep op s = .next t) : t.schedule = s.schedule := by
  obtain ⟨off, v, -, -, -, rfl⟩ | ⟨off, -, -, -, rfl⟩ | ⟨e, -⟩ | ⟨a, v, -, -, -, rfl⟩ | ⟨a, -, -, rfl⟩ |
    ⟨a, v, -, -, -, rfl⟩ | ⟨e, -⟩ := hostStep_cases op s t h
  · obtain e | ⟨hidle, -⟩ | ⟨g, e⟩ := busWrite_cases off v s
    · rw [e]
    · rw [hp] at hidle; cases hidle
    · rw [e]; rfl
  · rfl
  · exact absurd e hw
  · rfl
  · unfold State.hostDstRead; split <;> rfl
  · unfold State.hostDstWrite; split <;> rfl
  · exact absurd e hr

/-- Before the unit's turn an admitted host operation uses up one step of the delay and leaves the command pending. -/
theorem step_uses_delay {s : State} (hp : s.pending = true) (hu : s.unitTurn = false)
    (hops : ∀ op ∈ s.script, op.admitted s = true ∧ op ≠ .reset) :
    ∃ t, step s = .next t ∧ t.window = s.window ∧ s.delay = t.delay + 1 ∧ ∀ op ∈ t.script, op ∈ s.script := by
  obtain ⟨op, rest, hs, hw, hd⟩ := hostTurn_of_pending hp hu
  obtain ⟨hadm, hr⟩ := hops op (hs ▸ List.mem_cons_self)
  rw [step_host s op rest hu hs]
  obtain ⟨t, ht⟩ := hostStep_of_admitted (s := { s with script := rest, delay := s.delay - 1 }) hadm
  have hkeep := hostStep_keeps_schedule (s := { s with script := rest, delay := s.delay - 1 }) hp hr hw ht
  simp only [State.schedule, Prod.mk.injEq] at hkeep
  obtain ⟨hwin, hscript, hdelay⟩ := hkeep
  exact ⟨t, ht, hwin, by omega, fun o ho => hs ▸ List.mem_cons_of_mem op (hscript ▸ ho)⟩

theorem run_succ {s t : State} (h : step s = .next t) (k : Nat) :
    Host.Core.run Sys2Proof.core (k + 1) s = Host.Core.run Sys2Proof.core k t := by
  have h : Sys2Proof.core.step s = .next t := h
  simp only [Host.Core.run, h]

/-- Every host step before the unit's turn uses up one of the delay, so its turn comes. -/
theorem run_reaches_unitTurn (s : State) (hp : s.pending = true)
    (hops : ∀ op ∈ s.script, op.admitted s = true ∧ op ≠ .reset) :
    ∃ (k : Nat) (t : State), k ≤ s.delay ∧ Host.Core.run Sys2Proof.core k s = .next t ∧ t.unitTurn = true ∧
      t.latch = s.latch := by
  cases hu : s.unitTurn with
  | true => exact ⟨0, s, Nat.zero_le _, rfl, hu, rfl⟩
  | false =>
    obtain ⟨s', hs', hwin, hdelay, hsub⟩ := step_uses_delay hp hu hops
    have hops' : ∀ op ∈ s'.script, op.admitted s' = true ∧ op ≠ .reset := fun op ho =>
      op.admitted_congr hwin ▸ hops op (hsub op ho)
    simp only [State.window, Prod.mk.injEq] at hwin
    obtain ⟨hp', hlatch, -⟩ := hwin
    obtain ⟨k, t, hk, hrun, hut, hl⟩ := run_reaches_unitTurn s' (hp'.trans hp) hops'
    exact ⟨k + 1, t, by omega, (run_succ hs' k).trans hrun, hut, hl.trans hlatch⟩
termination_by s.delay

/-- Settles O7: the delay runs out, and the perform step of the unit's turn completes whatever word is latched. -/
theorem pendingCommandIsPerformed : Obligations.PendingCommandIsPerformed := by
  intro s hp hops
  obtain ⟨k, t, hk, hrun, hu, hlatch⟩ := run_reaches_unitTurn s hp hops
  obtain ⟨u, hperform, hidle, hdone⟩ := perform_completes t
  exact ⟨k, t, u, hk, hrun, hu, hlatch, (step_unit hu).trans hperform, hidle, hdone⟩

end Sys2Proof.Machine
end

section
/-! PROOFS. The statements about 20_memory: the host's accesses of REG, SRC and DST (R50 to R63, R73), the window of a
pending DECODE (R67), and what a DECODE leaves in DST when the host disturbed its window (R67, R68). -/

namespace Sys2Proof.Machine

/-! ### The canonical form determines a memory (20_memory R50; log entry 2) -/

theorem Memory.read_cons_self (a : Nat) (b : Byte) (m : Memory) : Memory.read ((a, b) :: m) a = b := if_pos rfl

theorem Memory.read_cons_of_ne {a k : Nat} (h : k ≠ a) (b : Byte) (m : Memory) :
    Memory.read ((a, b) :: m) k = m.read k := if_neg h

/-- The first address a canonical memory lists tells it from a memory that lists only later ones. -/
theorem Memory.read_head_ne {a : Nat} {b : Byte} {m m' : Memory} (h : Memory.wf ((a, b) :: m) = true)
    (h' : ∀ c ∈ m', a < c.1) : Memory.read ((a, b) :: m) a ≠ m'.read a := by
  obtain ⟨-, -, hb, -⟩ := (Memory.wf_cons a b m).1 h
  rwa [Memory.read_cons_self, Memory.read_below m' a h']

/-- The first address of a canonical memory is not below that of another that reads alike. -/
theorem Memory.head_le_of_read_eq {a a' : Nat} {b b' : Byte} {m m' : Memory} (h : Memory.wf ((a, b) :: m) = true)
    (h' : Memory.wf ((a', b') :: m') = true)
    (e : ∀ k, Memory.read ((a, b) :: m) k = Memory.read ((a', b') :: m') k) : a' ≤ a := by
  obtain ⟨rising, -⟩ := (Memory.wf_cons a' b' m').1 h'
  refine Nat.le_of_not_lt fun hlt => Memory.read_head_ne h (fun c hc => ?_) (e a)
  obtain rfl | hc := List.mem_cons.1 hc
  · exact hlt
  · exact Nat.lt_trans hlt (rising c hc)

/-- Canonical memories that read alike and list the same first address read alike without it. -/
theorem Memory.read_tail_eq {a : Nat} {b b' : Byte} {m m' : Memory} (h : Memory.wf ((a, b) :: m) = true)
    (h' : Memory.wf ((a, b') :: m') = true)
    (e : ∀ k, Memory.read ((a, b) :: m) k = Memory.read ((a, b') :: m') k) (k : Nat) : m.read k = m'.read k := by
  obtain ⟨rising, -⟩ := (Memory.wf_cons a b m).1 h
  obtain ⟨rising', -⟩ := (Memory.wf_cons a b' m').1 h'
  by_cases hk : k = a
  · rw [hk, Memory.read_below m a rising, Memory.read_below m' a rising']
  · rw [← Memory.read_cons_of_ne hk b m, e k, Memory.read_cons_of_ne hk]

/-- Settles O19, by induction on the first memory: the two list the same first address with the same byte, and their tails
read alike. -/
theorem canonicalMemoryIsUnique : Obligations.CanonicalMemoryIsUnique := by
  intro m
  induction m with
  | nil =>
    intro m' _ h' e
    cases m' with
    | nil => rfl
    | cons c m' => exact absurd (e c.1).symm (Memory.read_head_ne h' nofun)
  | cons c m ih =>
    obtain ⟨a, b⟩ := c
    intro m' h h' e
    cases m' with
    | nil => exact absurd (e a) (Memory.read_head_ne h nofun)
    | cons c' m' =>
      obtain ⟨a', b'⟩ := c'
      obtain rfl : a = a' :=
        Nat.le_antisymm (Memory.head_le_of_read_eq h' h fun k => (e k).symm) (Memory.head_le_of_read_eq h h' e)
      obtain rfl : b = b' := by rw [← Memory.read_cons_self a b m, e a, Memory.read_cons_self]
      obtain ⟨-, -, -, hm⟩ := (Memory.wf_cons a b m).1 h
      obtain ⟨-, -, -, hm'⟩ := (Memory.wf_cons a b m').1 h'
      rw [ih m' hm hm' (Memory.read_tail_eq h h' e)]

/-! ### REG accesses (20_memory R59, R63) -/

theorem offset_of_ofOffset {off : Nat} {r : Reg} (h : Reg.ofOffset off = some r) : r.offset = off := by
  simpa using List.find?_some h

/-- A write of an offset where no register but an RO one stands does nothing (10_state R21, R38). -/
theorem busWrite_of_ro {off : Nat} (h : ∀ r : Reg, r.offset = off → r.access = .ro) (v : Word) (s : State) :
    s.busWrite off v = s := by
  rw [State.busWrite]
  split
  case h_1 r hr => exact writeReg_ro (h r (offset_of_ofOffset hr)) v s
  case h_2 => rfl

/-- Settles O16: the bus admits the access, and the write it gives is the register's at that offset. -/
theorem hostRegAccessEffects : Obligations.HostRegAccessEffects := by
  intro s rest off hu hoff halign
  refine ⟨fun hs => (step_host s _ rest hu hs).trans (admitReg_next off 32 _ hoff rfl halign), fun v hs => ?_⟩
  have write : step s = .next (State.busWrite off v { s with script := rest, delay := s.delay - 1 }) :=
    (step_host s _ rest hu hs).trans (admitReg_next off 32 _ hoff rfl halign)
  refine ⟨write, fun r hr hrw => ?_, fun hro => ?_⟩
  · rw [write, ← hr, busWrite_offset, writeReg_rw hrw]
  · rw [write, busWrite_of_ro hro]

theorem admitReg_refused {off width : Nat} (k : State) (hoff : off < regSpaceBytes) (h : ¬ (width = 32 ∧ off % 4 = 0)) :
    admitReg off width k = .refused .regAccessWidth ∨ admitReg off width k = .refused .regAccessMisaligned := by
  rw [admitReg, if_neg (Nat.not_le.2 hoff)]
  by_cases hw : width = 32
  · exact .inr (by rw [if_neg (Decidable.not_not.2 hw), if_pos fun ha => h ⟨hw, ha⟩])
  · exact .inl (if_pos hw)

/-- Settles O17: a read and a write stand before the same admission. -/
theorem oddRegAccessIsRefused : Obligations.OddRegAccessIsRefused := by
  intro s op rest off width v hu hs hop hoff
  have access : ∃ k, step s = admitReg off width k := by
    rw [step_host s op rest hu hs]
    obtain rfl | rfl := hop <;> exact ⟨_, rfl⟩
  obtain ⟨k, hk⟩ := access
  rw [hk]
  exact ⟨fun ⟨hw, ha⟩ => ⟨k, admitReg_next off width k hoff hw ha⟩, admitReg_refused k hoff⟩

/-! ### What a host operation leaves (20_memory R54, R73; 70_reset R227) -/

theorem hostDstWrite_frame (a : Nat) (v : Byte) (s : State) :
    ∃ d n l, s.hostDstWrite a v = { s with dst := d, draws := n, dstDisturbed := l } := by
  unfold State.hostDstWrite
  split <;> exact ⟨_, _, _, rfl⟩

theorem hostDstRead_frame (a : Nat) (s : State) :
    ∃ n o, s.hostDstRead a = { s with draws := n, observed := o } := by
  unfold State.hostDstRead
  split <;> exact ⟨_, _, rfl⟩

/-- What a command reports beside STATUS: RESULT, TEX and ERRINFO (10_state R41). -/
def State.results (s : State) : Word × Vector Word 16 × Word × Word := (s.result, s.tex, s.errInfo0, s.errInfo1)

/-- Only a reset and an issue touch what the last command reported. -/
theorem hostStep_results {op : HostOp} {s t : State} (hr : op ≠ .reset) (h : hostStep op s = .next t) :
    t.results = s.results ∨ (s.pending = false ∧ ∃ w, t = s.issue w) := by
  obtain ⟨off, v, -, -, -, rfl⟩ | ⟨off, -, -, -, rfl⟩ | ⟨-, rfl⟩ | ⟨a, v, -, -, -, rfl⟩ | ⟨a, -, -, rfl⟩ |
    ⟨a, v, -, -, -, rfl⟩ | ⟨e, -⟩ := hostStep_cases op s t h
  · obtain e | ⟨hp, e⟩ | ⟨g, e⟩ := busWrite_cases off v s <;> rw [e]
    · exact .inl rfl
    · exact .inr ⟨hp, v, rfl⟩
    · exact .inl rfl
  · exact .inl rfl
  · split <;> exact .inl rfl
  · exact .inl rfl
  · obtain ⟨n, o, e⟩ := hostDstRead_frame a s
    rw [e]; exact .inl rfl
  · obtain ⟨d, n, l, e⟩ := hostDstWrite_frame a v s
    rw [e]; exact .inl rfl
  · exact absurd e hr

/-- Settles O18: an issue keeps RESULT and TEX and clears ERRINFO. -/
theorem hostTurnKeepsResults : Obligations.HostTurnKeepsResults := by
  intro s t op rest hu hs hr h
  rw [step_host s op rest hu hs] at h
  obtain e | ⟨hp, w, rfl⟩ := hostStep_results hr h
  · simp only [State.results, Prod.mk.injEq] at e
    obtain ⟨hresult, htex, herr0, herr1⟩ := e
    exact ⟨hresult, htex, .inl ⟨herr0, herr1⟩⟩
  · exact ⟨rfl, rfl, .inr ⟨hp, rfl, rfl, rfl⟩⟩

/-- Only the host's SRC write touches SRC. -/
theorem hostStep_src {op : HostOp} {s t : State} (h : hostStep op s = .next t) :
    t.src = s.src ∨ ∃ a v, op = .srcWrite a v ∧ t = s.hostSrcWrite a v := by
  obtain ⟨off, v, -, -, -, rfl⟩ | ⟨off, -, -, -, rfl⟩ | ⟨-, rfl⟩ | ⟨a, v, e, -, -, rfl⟩ | ⟨a, -, -, rfl⟩ |
    ⟨a, v, -, -, -, rfl⟩ | ⟨-, rfl⟩ := hostStep_cases op s t h
  · obtain e | ⟨-, e⟩ | ⟨g, e⟩ := busWrite_cases off v s <;> rw [e] <;> exact .inl rfl
  · exact .inl rfl
  · split <;> exact .inl rfl
  · exact .inr ⟨a, v, e, rfl⟩
  · obtain ⟨n, o, e⟩ := hostDstRead_frame a s
    rw [e]; exact .inl rfl
  · obtain ⟨d, n, l, e⟩ := hostDstWrite_frame a v s
    rw [e]; exact .inl rfl
  · exact .inl (resetUnit_src s)

theorem exec_src {i : Instr} {s t : State} (h : exec i s = .next t) : t.src = s.src := by
  obtain ⟨-, -, hkept⟩ := exec_completes h
  simp only [State.kept, Prod.mk.injEq] at hkept
  obtain ⟨-, -, hsrc, -⟩ := hkept
  exact hsrc

/-- Settles O20: no command writes SRC, and of the host's operations only its SRC write does, which is no DST write. -/
theorem srcAndDstAreSeparate : Obligations.SrcAndDstAreSeparate := by
  intro s t h
  obtain ⟨-, i, -, he⟩ | ⟨-, -, rfl⟩ | ⟨-, -, rfl⟩ | ⟨hu, op, rest, hs, ho⟩ := step_cases s t h
  · exact .inl (exec_src he)
  · exact .inl rfl
  · exact .inl rfl
  · obtain hsrc | ⟨a, v, rfl, rfl⟩ := hostStep_src ho
    · exact .inl hsrc
    · exact .inr ⟨rfl, hu, a, v, rest, hs, rfl⟩

/-! ### The window of a pending DECODE (20_memory R67) -/

theorem inDstWindow_of_lt {s : State} (hp : s.pending = true) (hc : s.latch.cmd = 0x0000000C) {a : Nat}
    (ha : a < 4 * (s.latch.regs.width.toNat * s.latch.regs.height.toNat)) : s.inDstWindow a = true :=
  Bool.and_eq_true_iff.2 ⟨(decodePending_iff s).2 ⟨hp, hc⟩, decide_eq_true ha⟩

theorem hostDstRead_in_window {s : State} {a : Nat} (h : s.inDstWindow a = true) :
    s.hostDstRead a = { s with observed := s.observed ++ [.dst a (Config.freeByte s.draws)], draws := s.draws + 1 } :=
  if_pos h

theorem hostDstWrite_in_window {s : State} {a : Nat} (h : s.inDstWindow a = true) (v : Byte) :
    s.hostDstWrite a v = { s with
      dst := s.dst.write a (Config.freeByte s.draws), draws := s.draws + 1, dstDisturbed := s.dstDisturbed ++ [a] } :=
  if_pos h

/-- Settles O22: the free byte is the one numbered `draws`, for the read and for the write. -/
theorem dstWindowIsFree : Obligations.DstWindowIsFree := by
  intro s a v rest hu hp hc hspace ha hwf
  let s' : State := { s with script := rest, delay := s.delay - 1 }
  have hw : s'.inDstWindow a = true := inDstWindow_of_lt (s := s') hp hc ha
  have hspace : a < byteSpaceBytes := hspace
  refine ⟨fun hs => ⟨s.draws, ?_, Nat.le_refl _, Nat.lt_succ_self _⟩, fun hs hrule =>
    ⟨s.dst.write a (Config.freeByte s.draws), s.draws, ?_, Nat.le_refl _, Nat.lt_succ_self _,
      fun k => Memory.read_write s.dst a _ k hwf⟩⟩
  · rw [step_host s _ rest hu hs, hostStep, if_pos hspace, hostDstRead_in_window (s := s') hw]
  · rw [step_host s _ rest hu hs, hostStep, if_pos hspace, hostDstWrite_in_window (s := s') hw,
      admitWrite_next s' _ _ _ (.inr hrule)]

/-! ### The cells of a raster (42_format_decoder R157, R160) -/

theorem toNat_byteLane (w : Word) (k : Nat) : (byteLane w k).toNat = Spec.lane w k := by
  rw [byteLane, BitVec.extractLsb'_toNat, Nat.shiftRight_eq_div_pow, Nat.pow_mul, Spec.lane]

/-- Output byte k of the channel packer is the source byte PACK_PERM names (43_pixel R180). -/
theorem byteLane_packFn (p : PackPerm) (w : Word) {k : Nat} (hk : k < 4) :
    byteLane (packFn p w) k = byteLane w (Spec.permAt p k) := by
  match k, hk with
  | 0, _ => exact byteLane_wordOfBytes_0 ..
  | 1, _ => exact byteLane_wordOfBytes_1 ..
  | 2, _ => exact byteLane_wordOfBytes_2 ..
  | 3, _ => exact byteLane_wordOfBytes_3 ..

theorem permAt_lt (p : PackPerm) (k : Nat) : Spec.permAt p k < 4 := by
  unfold Spec.permAt
  split
  · exact p.p0.isLt
  · split
    · exact p.p1.isLt
    · split
      · exact p.p2.isLt
      · exact p.p3.isLt

/-- Byte k of pixel (x, y) gets the source byte PACK_PERM picks from the texel's four (42_format_decoder R157). -/
theorem mem_rasterCells_unc (p : Params) (src : Memory) {w h x y k : Nat} (hx : x < w) (hy : y < h) (hk : k < 4) :
    (4 * (y * w + x) + k, src.read (Spec.texelOffset p w x y + Spec.permAt p.packPerm k)) ∈
      Format.unc.rasterCells p src w h := by
  refine (mem_rasterCells ..).2 ⟨x, y, (mem_gridPoints w h x y).2 ⟨hx, hy⟩, (mem_destCells_unc ..).2 ⟨k, hk, ?_⟩⟩
  rw [byteLane_packFn _ _ hk, byteLane_le32_readBytes _ _ _ (permAt_lt _ k)]
  rfl

/-- Byte k of texel (i, j) of block (bx, by) gets lane k of its decoded word (42_format_decoder R160). -/
theorem mem_rasterCells_bc (p : Params) (src : Memory) {w h bx by' i j k : Nat} (hx : bx < w / 4) (hy : by' < h / 4)
    (hi : i < 4) (hj : j < 4) (hk : k < 4) :
    (4 * ((4 * by' + j) * w + (4 * bx + i)) + k,
        byteLane (texelRgba (src.readBytes (Spec.blockOffset p w bx by') 16) i j) k) ∈
      Format.bc.rasterCells p src w h :=
  (mem_rasterCells ..).2 ⟨bx, by', (mem_gridPoints ..).2 ⟨hx, hy⟩, (mem_destCells_bc ..).2 ⟨i, j, k, hi, hj, hk, rfl⟩⟩

/-- Every byte of the output region is a byte of a pixel (20_memory R53). -/
theorem exists_pixel_of_lt {w h a : Nat} (ha : a < 4 * (w * h)) :
    ∃ x y k, x < w ∧ y < h ∧ k < 4 ∧ a = 4 * (y * w + x) + k := by
  have hpixel : a / 4 < w * h := by omega
  have hw : 0 < w := Nat.pos_of_mul_pos_right (Nat.zero_lt_of_lt hpixel)
  refine ⟨a / 4 % w, a / 4 / w, a % 4, Nat.mod_lt _ hw, Nat.div_lt_of_lt_mul hpixel, Nat.mod_lt _ (by decide), ?_⟩
  rw [Nat.mul_comm (a / 4 / w) w, Nat.div_add_mod, Nat.div_add_mod]

theorem rasterCells_ne_past_region (f : Format) (p : Params) (src : Memory) {w h a : Nat} (ha : 4 * (w * h) ≤ a) :
    ∀ c ∈ f.rasterCells p src w h, c.1 ≠ a := by
  intro c hc
  have hlt := rasterCells_lt f p src w h c hc
  rw [dstReq, Nat.mul_assoc] at hlt
  omega

/-- No block writes a pixel that no whole block covers (42_format_decoder R163). -/
theorem rasterCells_bc_ne_uncovered (p : Params) (src : Memory) {w h x y k : Nat} (hx : x < w) (hk : k < 4)
    (hout : 4 * (w / 4) ≤ x ∨ 4 * (h / 4) ≤ y) :
    ∀ c ∈ Format.bc.rasterCells p src w h, c.1 ≠ 4 * (y * w + x) + k := by
  intro c hc he
  obtain ⟨bx, by', hg, hd⟩ := (mem_rasterCells ..).1 hc
  obtain ⟨hbx, hby⟩ := (mem_gridPoints ..).1 hg
  obtain ⟨i, j, k', hi, hj, hk', rfl⟩ := (mem_destCells_bc ..).1 hd
  have hplace : (4 * by' + j) * w + (4 * bx + i) = y * w + x := by
    have he : 4 * ((4 * by' + j) * w + (4 * bx + i)) + k' = 4 * (y * w + x) + k := he
    omega
  obtain ⟨ex, ey⟩ := pixel_inj w (4 * bx + i) (4 * by' + j) x y (by omega) hx hplace
  omega

/-! ### A DECODE whose checks pass (42_format_decoder R152 to R159) -/

theorem rangeFailure_eq_none {f : Format} {p : Params} {w h n : Nat}
    (hr : ∀ x y, (x, y) ∈ f.grid w h → f.srcOffset p w (x, y) + f.unitBytes ≤ n) : f.rangeFailure p w h n = none := by
  refine List.find?_eq_none.2 fun off hoff => ?_
  obtain ⟨⟨x, y⟩, hd, rfl⟩ := List.mem_map.1 hoff
  simpa using hr x y hd

/-- The latched sizes pass the four checks of a DECODE in format f (42_format_decoder R155). -/
structure ChecksPass (f : Format) (s : State) : Prop where
  format : Format.ofCode s.latch.regs.format = some f
  src    : f.srcReq s.latch.regs.width.toNat s.latch.regs.height.toNat ≤ s.latch.regs.srcLen.toNat
  dst    : dstReq s.latch.regs.width.toNat s.latch.regs.height.toNat ≤ s.latch.regs.dstLen.toNat
  range  : f.rangeFailure s.params s.latch.regs.width.toNat s.latch.regs.height.toNat s.latch.regs.srcLen.toNat = none

theorem checksPass_unc {s : State} (h : Spec.uncChecksPass s) : ChecksPass .unc s where
  format := by rw [h.format]; rfl
  src := by rw [Format.srcReq, Nat.mul_assoc]; exact h.src
  dst := by rw [dstReq, Nat.mul_assoc]; exact h.dst
  range := rangeFailure_eq_none fun x y hg =>
    have ⟨hx, hy⟩ := (mem_gridPoints ..).1 hg
    h.range x y hx hy

theorem checksPass_bc {s : State} (h : Spec.bcChecksPass s) : ChecksPass .bc s where
  format := by rw [h.format]; rfl
  src := by rw [Format.srcReq, Nat.mul_assoc]; exact h.src
  dst := by rw [dstReq, Nat.mul_assoc]; exact h.dst
  range := rangeFailure_eq_none fun x y hg =>
    have ⟨hx, hy⟩ := (mem_gridPoints ..).1 hg
    h.range x y hx hy

/-- The cells of the raster of the latched sizes. -/
def State.raster (f : Format) (s : State) : List Host.Cell :=
  f.rasterCells s.params s.src s.latch.regs.width.toNat s.latch.regs.height.toNat

theorem exec_decode_of_checksPass {f : Format} {s : State} (h : ChecksPass f s) :
    exec .decode s = .next (s.writeRaster (s.raster f)).finish := by
  obtain ⟨hf, hsrc, hdst, hrange⟩ := h
  simp only [exec, execDecode, hf, if_neg (Nat.not_lt.2 hsrc), if_neg (Nat.not_lt.2 hdst), hrange, State.raster]

/-! ### A DECODE whose window the host disturbed (20_memory R67, R68; log entries 5, 6) -/

/-- The byte of DST at a is a free byte, one of those drawn from state s on and numbered below n. -/
def State.FreshAt (s : State) (n : Nat) (d : Memory) (a : Nat) : Prop :=
  ∃ m, s.draws ≤ m ∧ m < n ∧ d.read a = Config.freeByte m

/-- What a DECODE from state s that writes `cells` leaves in DST, d after n draws: free bytes where the host wrote DST in the
window, and in every cell if it disturbed SRC; else the cells; and the old bytes everywhere else. -/
structure State.RasterLeaves (s : State) (cells : List Host.Cell) (d : Memory) (n : Nat) : Prop where
  dstWritten   : ∀ a ∈ s.dstDisturbed, s.FreshAt n d a
  srcDisturbed : s.srcDisturbed = true → ∀ c ∈ cells, s.FreshAt n d c.1
  undisturbed  : s.srcDisturbed = false → ∀ c ∈ cells, c.1 ∉ s.dstDisturbed → d.read c.1 = c.2
  outside      : ∀ a, (∀ c ∈ cells, c.1 ≠ a) → a ∉ s.dstDisturbed → d.read a = s.dst.read a

/-- A DECODE whose checks pass ends with no error, whatever the host disturbed. -/
theorem exec_decode_leaves {f : Format} {s : State} (h : ChecksPass f s) (hs : s.Inv) :
    ∃ d n, exec .decode s = .next { s with dst := d, draws := n, pending := false, done := true } ∧
      s.RasterLeaves (s.raster f) d n := by
  obtain ⟨d, n, e⟩ := writeRaster_frame (s.raster f) s
  have read := writeRaster_read (s.raster f) s hs.dstWf (rasterCells_lt_space f s.params s.src h.dst)
    (rasterCells_distinct f s.params s.src _ _) hs.disturbedIn
  simp only [e] at read
  refine ⟨d, n, by rw [exec_decode_of_checksPass h, e]; rfl, fun a ha => ?_, fun hd c hc => ?_, fun hd c hc hn => ?_,
    fun a hout hn => ?_⟩
  · obtain ⟨free, -, -⟩ := read a
    exact free (.inl ha)
  · obtain ⟨free, -, -⟩ := read c.1
    exact free (.inr ⟨hd, c, hc, rfl⟩)
  · obtain ⟨-, written, -⟩ := read c.1
    exact written hn hd c hc rfl
  · obtain ⟨-, -, unwritten⟩ := read a
    exact unwritten hn hout

/-- Settles O52: every byte of the region is a byte of a pixel, and every byte of a pixel is a cell. -/
theorem disturbedDecodeIsFree : Obligations.DisturbedDecodeIsFree := by
  intro s h hs
  obtain ⟨d, n, hexec, leaves⟩ := exec_decode_leaves (checksPass_unc h) hs
  refine ⟨d, n, hexec, leaves.dstWritten, fun hd a ha => ?_, fun hd x y k hx hy hk hn => ?_, fun a ha hn => ?_⟩
  · obtain ⟨x, y, k, hx, hy, hk, rfl⟩ := exists_pixel_of_lt ha
    exact leaves.srcDisturbed hd _ (mem_rasterCells_unc s.params s.src hx hy hk)
  · exact leaves.undisturbed hd _ (mem_rasterCells_unc s.params s.src hx hy hk) hn
  · exact leaves.outside a (rasterCells_ne_past_region .unc s.params s.src ha) hn

/-- Settles O60: every byte of a texel is a cell, and no cell is a byte of an uncovered pixel. -/
theorem disturbedBlockDecodeIsFree : Obligations.DisturbedBlockDecodeIsFree := by
  intro s h hs
  obtain ⟨d, n, hexec, leaves⟩ := exec_decode_leaves (checksPass_bc h) hs
  refine ⟨d, n, hexec, leaves.dstWritten, fun bx by' i j k hx hy hi hj hk => ?_, fun x y k hx _ hk hout hn => ?_,
    fun a ha hn => ?_⟩
  · have cell := mem_rasterCells_bc s.params s.src hx hy hi hj hk
    exact ⟨fun hd => leaves.srcDisturbed hd _ cell,
      fun hd hn => (congrArg BitVec.toNat (leaves.undisturbed hd _ cell hn)).trans (toNat_byteLane _ k)⟩
  · exact leaves.outside _ (rasterCells_bc_ne_uncovered s.params s.src hx hk hout) hn
  · exact leaves.outside a (rasterCells_ne_past_region .bc s.params s.src ha) hn

end Sys2Proof.Machine
end

section
/-! PROOFS. The statements about 30_encoding: the decoder and the encoder (R75 to R79, R87, R89), the perform step of a
legal and of an illegal word (R83, R84), and the host's byte accesses (R86). -/

namespace Sys2Proof.Machine

/-! ### Decode and encode (30_encoding R77, R87, R89) -/

/-- Settles O1: every command's word decodes to it, and the decoder's fields give back the whole word. -/
theorem decodeEncodeAgree : Obligations.DecodeEncodeAgree :=
  ⟨fun i _ => decode_encode i, fun _ _ => encode_of_decode⟩

/-- A word with RES = 0 decodes as the opcode map of 30_encoding R77 reads its M and OP. -/
theorem decode_of_instrOfOp {op : Nat} {m : Bool} {i : Instr} (h : instrOfOp op m = some i) :
    Sys2Proof.decode (0#23 ++ BitVec.ofBool m ++ BitVec.ofNat 8 op) = .instr i := by
  rw [BitVec.append_assoc, BitVec.cast_eq, ← encode_of_instrOfOp h, decode_encode]

/-- Settles O2: each word's M and OP stand in the opcode map. -/
theorem wordsOfEachFamilyDecode : Obligations.WordsOfEachFamilyDecode :=
  ⟨decode_of_instrOfOp (op := 0x00) (m := false) rfl, decode_of_instrOfOp (op := 0x01) (m := false) rfl,
    decode_of_instrOfOp (op := 0x07) (m := false) rfl, decode_of_instrOfOp (op := 0x07) (m := true) rfl,
    decode_of_instrOfOp (op := 0x09) (m := false) rfl, decode_of_instrOfOp (op := 0x0C) (m := false) rfl⟩

/-! ### Illegal words (30_encoding R83) -/

theorem toNat_opField (w : Word) : (opField w).toNat = w.toNat % 256 := by
  rw [opField, BitVec.extractLsb'_toNat, Nat.shiftRight_zero]

theorem toNat_resField (w : Word) : (resField w).toNat = w.toNat / 512 := by
  rw [resField, BitVec.extractLsb'_toNat, Nat.shiftRight_eq_div_pow]
  exact Nat.mod_eq_of_lt (Nat.div_lt_of_lt_mul w.isLt)

theorem mField_eq_true_iff (w : Word) : mField w = true ↔ w.toNat / 256 % 2 = 1 := by
  rw [mField, BitVec.getLsbD, Nat.testBit_eq_decide_div_mod_eq, decide_eq_true_iff]

/-- The three cases of 30_encoding R83 on the fields of R76. -/
theorem illegalWord_iff_fields (w : Word) :
    Spec.illegalWord w.toNat ↔
      0x0D ≤ (opField w).toNat ∨ resField w ≠ 0 ∨ (mField w = true ∧ (opField w).toNat ≠ 0x07) := by
  have hres : resField w ≠ 0 ↔ w.toNat / 512 ≠ 0 := by
    rw [← toNat_resField]
    exact (BitVec.toNat_ne_iff_ne (y := 0)).symm
  rw [hres, mField_eq_true_iff, toNat_opField, Spec.illegalWord]

/-- Below the reserved opcodes the opcode map leaves out only M = 1 outside DTEX (30_encoding R77, R78). -/
theorem instrOfOp_eq_none_iff {op : Nat} (hop : op < 0x0D) (m : Bool) :
    instrOfOp op m = none ↔ m = true ∧ op ≠ 0x07 := by
  have row : ∀ (k : Fin 0x0D) (m : Bool), instrOfOp k.val m = none ↔ m = true ∧ k.val ≠ 0x07 := by decide
  exact row ⟨op, hop⟩ m

/-- The decoder refuses exactly the words that 30_encoding R83 calls illegal. -/
theorem decode_illegal_iff (w : Word) :
    (∃ e, Sys2Proof.decode w = .illegal e) ↔ Spec.illegalWord w.toNat := by
  rw [illegalWord_iff_fields, Sys2Proof.decode]
  by_cases hres : resField w = 0
  · rw [if_neg (not_not_intro hres)]
    by_cases hop : 0x0D ≤ (opField w).toNat
    · rw [if_pos hop]
      exact iff_of_true ⟨_, rfl⟩ (.inl hop)
    · have hmap := instrOfOp_eq_none_iff (Nat.not_le.1 hop) (mField w)
      rw [if_neg hop, or_iff_right hop, or_iff_right (not_not_intro hres), ← hmap]
      cases instrOfOp (opField w).toNat (mField w) <;> simp
  · rw [if_pos hres]
    exact iff_of_true ⟨_, rfl⟩ (.inr (.inl hres))

theorem decode_legal {w : Word} (h : ¬ Spec.illegalWord w.toNat) : ∃ i, Sys2Proof.decode w = .instr i := by
  cases hd : Sys2Proof.decode w with
  | instr i => exact ⟨i, rfl⟩
  | illegal e => exact absurd ((decode_illegal_iff w).1 ⟨e, hd⟩) h

/-- Error entry with the zero-extended word as info: the word in ERRINFO0 and 0 in ERRINFO1 (60_exceptions R196). -/
theorem raiseIllegal_eq (s : State) : s.raiseIllegal = { s with
    err := true, errCode := .illegalCmd, errInfo0 := s.latch.cmd, errInfo1 := 0, pending := false, done := true } := by
  have low : (s.latch.cmd.setWidth 64).extractLsb' 0 32 = s.latch.cmd := by
    rw [BitVec.extractLsb'_setWidth_of_le (by decide), BitVec.extractLsb'_eq_self]
  have high : (s.latch.cmd.setWidth 64).extractLsb' 32 32 = 0 := by ext; simp
  rw [State.raiseIllegal, State.raiseError, low, high, State.finish]

/-- Settles O4: the decoder refuses the latched word, and the perform step is error entry. -/
theorem illegalWordRaisesIllegalCmd : Obligations.IllegalWordRaisesIllegalCmd := by
  intro s hu hw
  obtain ⟨e, hd⟩ := (decode_illegal_iff s.latch.cmd).2 hw
  rw [step_unit hu, perform_illegal hd, raiseIllegal_eq]

/-- Settles O5: the command is the one the decoder reads, and any command with that word decodes to itself. -/
theorem legalWordIsExactlyOneCommand : Obligations.LegalWordIsExactlyOneCommand := by
  intro s hu hw
  obtain ⟨i, hd⟩ := decode_legal hw
  refine ⟨i, encode_of_decode hd, fun j hj => ?_, (step_unit hu).trans (perform_instr hd)⟩
  have hdj : Sys2Proof.decode s.latch.cmd = .instr j := hj ▸ decode_encode j
  exact Decoded.instr.inj (hdj.symm.trans hd)

/-! ### The host's byte accesses (30_encoding R86, 70_reset R232) -/

theorem hostDstRead_outside_window {s : State} {a : Nat} (h : s.inDstWindow a = false) :
    s.hostDstRead a = { s with observed := s.observed ++ [.dst a (s.dst.read a)] } :=
  if_neg (Bool.eq_false_iff.1 h)

theorem hostDstWrite_outside_window {s : State} {a : Nat} (h : s.inDstWindow a = false) (v : Byte) :
    s.hostDstWrite a v = { s with dst := s.dst.write a v } :=
  if_neg (Bool.eq_false_iff.1 h)

theorem hostStep_srcWrite {s : State} {a : Nat} (ha : a < byteSpaceBytes)
    (h : s.hostRule = .anyValue ∨ s.inSrcWindow a = false) (v : Byte) :
    hostStep (.srcWrite a v) s = .next (s.hostSrcWrite a v) :=
  (if_pos ha).trans (admitWrite_next s _ _ _ h.symm)

theorem hostStep_dstWrite_outside_window {s : State} {a : Nat} (ha : a < byteSpaceBytes)
    (h : s.inDstWindow a = false) (v : Byte) :
    hostStep (.dstWrite a v) s = .next { s with dst := s.dst.write a v } := by
  rw [hostStep, if_pos ha, admitWrite_next s _ _ _ (.inl h), hostDstWrite_outside_window h]

theorem hostStep_dstRead_outside_window {s : State} {a : Nat} (ha : a < byteSpaceBytes)
    (h : s.inDstWindow a = false) :
    hostStep (.dstRead a) s = .next { s with observed := s.observed ++ [.dst a (s.dst.read a)] } := by
  rw [hostStep, if_pos ha, hostDstRead_outside_window h]

/-- Settles O21: the machine admits the access, and a write's memory is `Memory.write`, which changes the one byte. -/
theorem hostByteAccesses : Obligations.HostByteAccesses := by
  intro s a v rest hu hsrc hdst ha
  let s' : State := { s with script := rest, delay := s.delay - 1 }
  refine ⟨fun hs h => ⟨s.src.write a v, ?_, fun k => Memory.read_write s.src a v k hsrc⟩,
    fun hs h => ⟨s.dst.write a v, ?_, fun k => Memory.read_write s.dst a v k hdst⟩, fun hs h => ?_⟩
  · exact (step_host s _ rest hu hs).trans (hostStep_srcWrite (s := s') ha h v)
  · exact (step_host s _ rest hu hs).trans (hostStep_dstWrite_outside_window (s := s') ha h v)
  · exact (step_host s _ rest hu hs).trans (hostStep_dstRead_outside_window (s := s') ha h)

end Sys2Proof.Machine
end

section
/-! PROOFS. The statements about 40_address_mapper: the XOR of a map's terms (R102, R106, R108, R109, R114), the bases (R101,
R105), and the commands MAPU and MAPC (R103, R107). -/

namespace Sys2Proof.Machine

/-! ### A mapper term over XOR (00_scope R14, 40_address_mapper R114) -/

theorem shiftBy_xor (d : Shift) (v w : Word) : shiftBy d (v ^^^ w) = shiftBy d v ^^^ shiftBy d w := by
  cases d with
  | left n => exact BitVec.shiftLeft_xor_distrib v w n.val
  | right n => exact BitVec.ushiftRight_xor_distrib v w n.val

theorem and_xor_distrib_right (v w m : Word) : (v ^^^ w) &&& m = (v &&& m) ^^^ (w &&& m) :=
  BitVec.eq_of_toNat_eq Nat.and_xor_distrib_right

theorem termValue_of_x {t : MapperTerm} (h : t.coord = .x) (x y : Word) :
    termValue t x y = shiftBy t.shift (x &&& t.mask) := by
  rw [termValue, h]

theorem termValue_of_y {t : MapperTerm} (h : t.coord = .y) (x y : Word) :
    termValue t x y = shiftBy t.shift (y &&& t.mask) := by
  rw [termValue, h]

/-- The other coordinate does not matter, so it may differ. -/
theorem termValue_xor_of_x {t : MapperTerm} (h : t.coord = .x) (x₁ x₂ y y₁ y₂ : Word) :
    termValue t (x₁ ^^^ x₂) y = termValue t x₁ y₁ ^^^ termValue t x₂ y₂ := by
  simp only [termValue_of_x h, and_xor_distrib_right, shiftBy_xor]

theorem termValue_xor_of_y {t : MapperTerm} (h : t.coord = .y) (x x₁ x₂ y₁ y₂ : Word) :
    termValue t x (y₁ ^^^ y₂) = termValue t x₁ y₁ ^^^ termValue t x₂ y₂ := by
  simp only [termValue_of_y h, and_xor_distrib_right, shiftBy_xor]

theorem termValue_xor (t : MapperTerm) (x₁ x₂ y₁ y₂ : Word) :
    termValue t (x₁ ^^^ x₂) (y₁ ^^^ y₂) = termValue t x₁ y₁ ^^^ termValue t x₂ y₂ := by
  cases h : t.coord with
  | x => exact termValue_xor_of_x h ..
  | y => exact termValue_xor_of_y h ..

/-! ### The XOR of a list of terms (40_address_mapper R102, R109, R114) -/

@[simp] theorem xorTerms_nil (x y : Word) : xorTerms [] x y = 0 := rfl

@[simp] theorem xorTerms_cons (t : MapperTerm) (ts : List MapperTerm) (x y : Word) :
    xorTerms (t :: ts) x y = termValue t x y ^^^ xorTerms ts x y := rfl

theorem xorTerms_perm {ts us : List MapperTerm} (h : ts.Perm us) (x y : Word) : xorTerms ts x y = xorTerms us x y := by
  induction h with
  | nil => rfl
  | cons t _ ih => rw [xorTerms_cons, xorTerms_cons, ih]
  | swap t u ts =>
    simp only [xorTerms_cons]
    ac_rfl
  | trans _ _ ih₁ ih₂ => exact ih₁.trans ih₂

theorem xorTerms_cancel (t : MapperTerm) (ts : List MapperTerm) (x y : Word) :
    xorTerms (t :: t :: ts) x y = xorTerms ts x y := by
  rw [xorTerms_cons, xorTerms_cons, ← BitVec.xor_assoc, BitVec.xor_self, BitVec.zero_xor]

theorem xorTerms_xor (ts : List MapperTerm) (x₁ x₂ y₁ y₂ : Word) :
    xorTerms ts (x₁ ^^^ x₂) (y₁ ^^^ y₂) = xorTerms ts x₁ y₁ ^^^ xorTerms ts x₂ y₂ := by
  induction ts with
  | nil => exact BitVec.xor_self.symm
  | cons t ts ih =>
    rw [xorTerms_cons, xorTerms_cons, xorTerms_cons, termValue_xor, ih]
    ac_rfl

/-- A linear function sends 0 = 0 ^ 0 to a value XORed with itself. -/
theorem xorTerms_zero (ts : List MapperTerm) : xorTerms ts 0 0 = 0 :=
  (xorTerms_xor ts 0 0 0 0).trans BitVec.xor_self

/-- XORing the terms into a base one after the other, as the pseudocode of R102 and R106 does. -/
theorem foldl_xor_terms (ts : List MapperTerm) (x y base : Word) :
    (ts.map (fun t => termValue t x y)).foldl (· ^^^ ·) base = base ^^^ xorTerms ts x y := by
  induction ts generalizing base with
  | nil => exact BitVec.xor_zero.symm
  | cons t ts ih => rw [List.map_cons, List.foldl_cons, ih, xorTerms_cons, BitVec.xor_assoc]

/-! ### The maps (40_address_mapper R102, R106) -/

/-- Settles O27: the base does not read the terms, and their XOR depends only on the multiset of them. -/
theorem termOrderDoesNotMatter : Obligations.TermOrderDoesNotMatter := fun p _ t x y w =>
  ⟨fun h => congrArg (baseU y w ^^^ ·) (xorTerms_perm h x y), fun h => congrArg (baseC p y w ^^^ ·) (xorTerms_perm h x y),
    congrArg (baseU y w ^^^ ·) (xorTerms_cancel t p.uncTerms x y),
    congrArg (baseC p y w ^^^ ·) (xorTerms_cancel t p.bcTerms x y)⟩

/-- A base that does not read x cancels, and what is left is linear (40_address_mapper R114). -/
theorem xor_base_linear (ts : List MapperTerm) (base x₁ x₂ y : Word) :
    (base ^^^ xorTerms ts (x₁ ^^^ x₂) y) ^^^ (base ^^^ xorTerms ts 0 y) =
      (base ^^^ xorTerms ts x₁ y) ^^^ (base ^^^ xorTerms ts x₂ y) := by
  have cancel (u v : Word) : (base ^^^ u) ^^^ (base ^^^ v) = u ^^^ v := by
    calc (base ^^^ u) ^^^ (base ^^^ v)
      _ = (base ^^^ base) ^^^ (u ^^^ v) := by ac_rfl
      _ = u ^^^ v := by rw [BitVec.xor_self, BitVec.zero_xor]
  calc (base ^^^ xorTerms ts (x₁ ^^^ x₂) y) ^^^ (base ^^^ xorTerms ts 0 y)
    _ = xorTerms ts (x₁ ^^^ x₂ ^^^ 0) (y ^^^ y) := by rw [cancel, xorTerms_xor]
    _ = xorTerms ts (x₁ ^^^ x₂) (y ^^^ y) := congrArg (xorTerms ts · (y ^^^ y)) BitVec.xor_zero
    _ = (base ^^^ xorTerms ts x₁ y) ^^^ (base ^^^ xorTerms ts x₂ y) := by rw [cancel, xorTerms_xor]

/-- Settles O28: masking and shifting distribute over XOR, and each map is a base that does not read x and the XOR of terms. -/
theorem termPartIsXorLinear : Obligations.TermPartIsXorLinear := by
  refine ⟨fun t a b c => ⟨fun h => termValue_xor_of_x h .., fun h => termValue_xor_of_y h ..⟩, xorTerms_xor,
    fun p x₁ x₂ y w => ⟨?_, ?_⟩⟩
  · exact xor_base_linear p.uncTerms (baseU y w) x₁ x₂ y
  · exact xor_base_linear p.bcTerms (baseC p y w) x₁ x₂ y

theorem baseU_zero (w : Word) : baseU 0 w = 0 := by
  simp [baseU]

theorem baseC_zero (p : Params) (bw : Word) : baseC p 0 bw = 0 := by
  simp [baseC]

/-- Settles O26: at y = 0 each base has the factor 0, and the XOR of terms is linear. -/
theorem mapsSendOriginToZero : Obligations.MapsSendOriginToZero := by
  intro p w bw
  rw [mapUncompressed, mapCompressed, baseU_zero, baseC_zero, xorTerms_zero, xorTerms_zero]
  exact ⟨BitVec.xor_self, BitVec.xor_self⟩

/-! ### The fixed compressed terms (40_address_mapper R108) -/

theorem count_fixedBcTerms {p : Params} (h : p.wf = true) {t : MapperTerm} (ht : t ∈ fixedBcTerms) :
    p.bcTerms.count t = 1 := by
  simp only [Params.wf, Bool.and_eq_true, List.all_eq_true, beq_iff_eq] at h
  obtain ⟨⟨-, hcount⟩, -⟩ := h
  exact hcount t ht

/-- An element that stands once in a list, and the rest. -/
theorem cons_erase_of_count_one {t : MapperTerm} {ts : List MapperTerm} (h : ts.count t = 1) :
    (t :: ts.erase t).Perm ts ∧ t ∉ ts.erase t := by
  have hmem : t ∈ ts := List.count_pos_iff.1 (h ▸ Nat.one_pos)
  have hrest : (ts.erase t).count t = 0 := by rw [List.count_erase_self, h]
  exact ⟨(List.perm_cons_erase hmem).symm, List.count_eq_zero.1 hrest⟩

/-- Two elements that stand once each in a list, and the rest. -/
theorem cons_cons_erase_of_count_one {t u : MapperTerm} {ts : List MapperTerm} (hne : u ≠ t) (ht : ts.count t = 1)
    (hu : ts.count u = 1) :
    (t :: u :: (ts.erase t).erase u).Perm ts ∧ t ∉ (ts.erase t).erase u ∧ u ∉ (ts.erase t).erase u := by
  obtain ⟨permt, outt⟩ := cons_erase_of_count_one ht
  obtain ⟨permu, outu⟩ := cons_erase_of_count_one ((List.count_erase_of_ne hne).trans hu)
  exact ⟨(permu.cons t).trans permt, fun h => outt (List.mem_of_mem_erase h), outu⟩

/-- Settles O29: each fixed term stands once, so the others are what is left when both are taken out. -/
theorem fixedCompressedTerms : Obligations.FixedCompressedTerms := by
  intro p hp
  obtain ⟨perm, out₁, out₂⟩ := cons_cons_erase_of_count_one (by decide) (count_fixedBcTerms hp (.head _))
    (count_fixedBcTerms hp (.tail _ (.head _)))
  refine ⟨_, perm, out₁, out₂, fun x y w => ?_⟩
  rw [foldl_xor_terms, mapCompressed, baseC, ← xorTerms_perm perm, xorTerms_cons, xorTerms_cons,
    termValue_of_y rfl, termValue_of_y rfl, shiftBy, shiftBy]
  ac_rfl

/-! ### MAPU and MAPC (40_address_mapper R101, R103, R105, R107) -/

/-- Clearing the low four bits of y is a division and a product by 16. -/
theorem baseU_toNat (y width : Word) : (baseU y width).toNat = y.toNat / 16 * 16 * width.toNat % 2 ^ 32 := by
  have clear : (y &&& 0xFFFFFFF0#32).toNat = y.toNat / 16 * 16 := by
    calc (y &&& 0xFFFFFFF0#32).toNat
      _ = (y >>> 4 <<< 4).toNat := congrArg BitVec.toNat (BitVec.shiftLeft_ushiftRight (n := 4)).symm
      _ = y.toNat / 16 * 16 % 2 ^ 32 := by
        rw [BitVec.toNat_shiftLeft, BitVec.toNat_ushiftRight, Nat.shiftLeft_eq, Nat.shiftRight_eq_div_pow]
      _ = y.toNat / 16 * 16 := by omega
  rw [baseU, BitVec.toNat_mul, clear]

theorem baseC_toNat (p : Params) (blockY blockWidth : Word) :
    (baseC p blockY blockWidth).toNat =
      blockY.toNat / 2 ^ p.bcBaseShift.val * (blockWidth.toNat * p.bcBaseMul.toNat % 2 ^ 32) % 2 ^ 32 := by
  rw [baseC, BitVec.toNat_mul, BitVec.toNat_mul, BitVec.toNat_ushiftRight, Nat.shiftRight_eq_div_pow]

/-- Settles O24: the map is its base with the terms XORed into it one after the other. -/
theorem mapuResult : Obligations.MapuResult := fun s =>
  ⟨baseU s.latch.regs.arg1 s.latch.regs.arg2, _, baseU_toNat _ _, (foldl_xor_terms ..).symm, rfl⟩

/-- Settles O25: the map is its base with the terms XORed into it one after the other. -/
theorem mapcResult : Obligations.MapcResult := fun s =>
  ⟨baseC s.params s.latch.regs.arg1 s.latch.regs.arg2, _, baseC_toNat _ _ _, (foldl_xor_terms ..).symm, rfl⟩

end Sys2Proof.Machine
end

section
/-! PROOFS. The statements about 41_block_codec: the bytes of a sub-block (R120, R121, R129), the colour and alpha of a texel
(R122 to R135), and the commands EXP565, DCOL, DALPHA, DBLK, DTEX and DTEX.CO (R137 to R143). -/

namespace Sys2Proof.Machine

/-! ### The lanes of a texel word (00_scope R11) -/

@[simp] theorem lane_rgba_0 (r g b a : Byte) : Spec.lane (rgba r g b a) 0 = r.toNat := by
  rw [← toNat_byteLane, rgba, byteLane_wordOfBytes_0]

@[simp] theorem lane_rgba_1 (r g b a : Byte) : Spec.lane (rgba r g b a) 1 = g.toNat := by
  rw [← toNat_byteLane, rgba, byteLane_wordOfBytes_1]

@[simp] theorem lane_rgba_2 (r g b a : Byte) : Spec.lane (rgba r g b a) 2 = b.toNat := by
  rw [← toNat_byteLane, rgba, byteLane_wordOfBytes_2]

@[simp] theorem lane_rgba_3 (r g b a : Byte) : Spec.lane (rgba r g b a) 3 = a.toNat := by
  rw [← toNat_byteLane, rgba, byteLane_wordOfBytes_3]

/-- A word is its four lanes. -/
theorem toNat_eq_lanes (w : Word) :
    w.toNat = Spec.lane w 0 + 256 * Spec.lane w 1 + 65536 * Spec.lane w 2 + 16777216 * Spec.lane w 3 := by
  have hw := w.isLt
  simp only [Spec.lane]
  omega

/-! ### Little-endian reads of a sub-block (00_scope R11, 10_state R36, 41_block_codec R120, R121, R129) -/

/-- A part ORed above another one stands in its own bits. -/
theorem toNat_or_shiftLeft {m k n : Nat} (lo : BitVec m) (hi : BitVec k) (h : n = m + k) :
    (lo.setWidth n ||| hi.setWidth n <<< m).toNat = lo.toNat + 2 ^ m * hi.toNat := by
  have hlo : lo.toNat < 2 ^ n := Nat.lt_of_lt_of_le lo.isLt (Nat.pow_le_pow_right (by decide) (by omega))
  have hhi : hi.toNat < 2 ^ n := Nat.lt_of_lt_of_le hi.isLt (Nat.pow_le_pow_right (by decide) (by omega))
  have hshift : 2 ^ m * hi.toNat < 2 ^ n := by
    rw [h, Nat.pow_add]
    exact Nat.mul_lt_mul_of_pos_left hi.isLt (Nat.two_pow_pos m)
  rw [BitVec.toNat_or, BitVec.toNat_shiftLeft, BitVec.toNat_setWidth, BitVec.toNat_setWidth, Nat.mod_eq_of_lt hlo,
    Nat.mod_eq_of_lt hhi, Nat.shiftLeft_eq, Nat.mul_comm, Nat.mod_eq_of_lt hshift, Nat.or_comm,
    ← Nat.two_pow_add_eq_or_of_lt lo.isLt, Nat.add_comm]

theorem le16_toNat (b : List Byte) (o : Nat) :
    (le16 b o).toNat = (byteAt b o).toNat + 256 * (byteAt b (o + 1)).toNat :=
  toNat_or_shiftLeft _ _ rfl

theorem le32_toNat (b : List Byte) (o : Nat) : (le32 b o).toNat = (le16 b o).toNat + 65536 * (le16 b (o + 2)).toNat :=
  toNat_or_shiftLeft _ _ rfl

theorem le48_toNat (b : List Byte) (o : Nat) :
    (le48 b o).toNat = (le32 b o).toNat + 4294967296 * (le16 b (o + 4)).toNat :=
  toNat_or_shiftLeft _ _ rfl

theorem blockBytes_eq (blk : Vector Word 4) :
    blockBytes blk = (wordBytes blk[0] ++ wordBytes blk[1]) ++ (wordBytes blk[2] ++ wordBytes blk[3]) := by
  obtain ⟨⟨l⟩, h⟩ := blk
  match l, h with
  | [_, _, _, _], _ => rfl

theorem take_blockBytes (blk : Vector Word 4) : (blockBytes blk).take 8 = wordBytes blk[0] ++ wordBytes blk[1] := by
  rw [blockBytes_eq]
  rfl

theorem drop_blockBytes (blk : Vector Word 4) : (blockBytes blk).drop 8 = wordBytes blk[2] ++ wordBytes blk[3] := by
  rw [blockBytes_eq]
  rfl

/-- The half-words of a sub-block held in two words. -/
theorem le16_wordBytes (v w : Word) :
    (le16 (wordBytes v ++ wordBytes w) 0).toNat = v.toNat % 65536 ∧
    (le16 (wordBytes v ++ wordBytes w) 2).toNat = v.toNat / 65536 ∧
    (le16 (wordBytes v ++ wordBytes w) 4).toNat = w.toNat % 65536 ∧
    (le16 (wordBytes v ++ wordBytes w) 6).toNat = w.toNat / 65536 := by
  have hv := v.isLt
  have hw := w.isLt
  simp only [le16_toNat, byteAt, wordBytes, List.cons_append, List.nil_append, List.getD_cons_zero, List.getD_cons_succ,
    toNat_byteLane, Spec.lane]
  omega

theorem colour0_toNat (v w : Word) : (colour0 (wordBytes v ++ wordBytes w)).toNat = v.toNat % 65536 := by
  obtain ⟨first, -⟩ := le16_wordBytes v w
  exact first

theorem colour1_toNat (v w : Word) : (colour1 (wordBytes v ++ wordBytes w)).toNat = v.toNat / 65536 := by
  obtain ⟨-, second, -⟩ := le16_wordBytes v w
  exact second

theorem selector_toNat (v w : Word) (k : Nat) :
    (selector (wordBytes v ++ wordBytes w) k).toNat = w.toNat / 4 ^ k % 4 := by
  obtain ⟨-, -, third, fourth⟩ := le16_wordBytes v w
  have hS : (le32 (wordBytes v ++ wordBytes w) 4).toNat = w.toNat := by
    rw [le32_toNat, third, fourth, Nat.mod_add_div]
  rw [selector, BitVec.extractLsb'_toNat, hS, Nat.shiftRight_eq_div_pow, Nat.pow_mul]

theorem alphaCode_toNat (v w : Word) (k : Nat) :
    (alphaCode (wordBytes v ++ wordBytes w) k).toNat = (v.toNat / 65536 + w.toNat * 65536) / 8 ^ k % 8 := by
  obtain ⟨-, second, third, fourth⟩ := le16_wordBytes v w
  have hA : (le48 (wordBytes v ++ wordBytes w) 2).toNat = v.toNat / 65536 + w.toNat * 65536 := by
    rw [le48_toNat, le32_toNat, second, third, fourth]
    omega
  rw [alphaCode, BitVec.extractLsb'_toNat, hA, Nat.shiftRight_eq_div_pow, Nat.pow_mul]

/-! ### The expanded colour (41_block_codec R122, R123, R137) -/

theorem expand5_toNat (v : BitVec 5) : (expand5 v).toNat = Spec.expand5 v.toNat := by
  decide +revert

theorem expand6_toNat (v : BitVec 6) : (expand6 v).toNat = Spec.expand6 v.toNat := by
  decide +revert

theorem expand565_r_toNat (c : BitVec 16) : (expand565 c).r.toNat = Spec.red c.toNat := by
  rw [expand565, expand5_toNat, BitVec.extractLsb'_toNat, Nat.shiftRight_eq_div_pow, Spec.red]

theorem expand565_g_toNat (c : BitVec 16) : (expand565 c).g.toNat = Spec.green c.toNat := by
  rw [expand565, expand6_toNat, BitVec.extractLsb'_toNat, Nat.shiftRight_eq_div_pow, Spec.green]

theorem expand565_b_toNat (c : BitVec 16) : (expand565 c).b.toNat = Spec.blue c.toNat := by
  rw [expand565, expand5_toNat, BitVec.extractLsb'_toNat, Nat.shiftRight_zero, Spec.blue]

/-- Settles O30: the word's lanes are the expanded channels of the low half of L.ARG0. -/
theorem exp565Result : Obligations.Exp565Result := by
  intro s
  have hhalf : s.latch.half.toNat = s.latch.regs.arg0.toNat % 65536 := by
    rw [Latch.half, BitVec.extractLsb'_toNat, Nat.shiftRight_zero]
  refine ⟨_, rfl, ?_, ?_, ?_, ?_⟩
  · rw [lane_rgba_0, expand565_r_toNat, hhalf]
  · rw [lane_rgba_1, expand565_g_toNat, hhalf]
  · rw [lane_rgba_2, expand565_b_toNat, hhalf]
  · exact lane_rgba_3 ..

/-! ### The palette and the alpha of a code (41_block_codec R124 to R126, R131 to R133) -/

/-- A mean of two bytes is a byte, so a blend does not wrap (41_block_codec R142). -/
theorem blend_toNat {wa wb den : Nat} (h : wa + wb = den) (a b : Byte) :
    (blend wa wb den a b).toNat = (wa * a.toNat + wb * b.toNat) / den := by
  have hmean : (wa * a.toNat + wb * b.toNat) / den ≤ 255 := by
    refine Nat.div_le_of_le_mul ?_
    calc wa * a.toNat + wb * b.toNat
      _ ≤ wa * 255 + wb * 255 :=
        Nat.add_le_add (Nat.mul_le_mul_left _ (Nat.le_of_lt_succ a.isLt)) (Nat.mul_le_mul_left _ (Nat.le_of_lt_succ b.isLt))
      _ = den * 255 := by rw [← Nat.add_mul, h]
  rw [blend, BitVec.toNat_ofNat, Nat.mod_eq_of_lt (Nat.lt_succ_of_le hmean)]

/-- The palette works channel by channel: `ch` is one of the three projections of `Rgb`, and `e` its expanded channel of a
5-6-5 colour. -/
theorem palette_channel_toNat {ch : Rgb → Byte} {e : Nat → Nat}
    (hexpand : ∀ c, (ch (expand565 c)).toNat = e c.toNat)
    (hblend : ∀ wa wb den a b, ch (blendRgb wa wb den a b) = blend wa wb den (ch a) (ch b))
    (hblack : ch ⟨0#8, 0#8, 0#8⟩ = 0) (cb : List Byte) (sel : BitVec 2) :
    (ch (palette cb sel)).toNat = Spec.paletteLane (colour0 cb).toNat (colour1 cb).toNat sel.toNat
      (e (colour0 cb).toNat) (e (colour1 cb).toNat) := by
  have hsel : ∀ sel : BitVec 2, sel = 0 ∨ sel = 1 ∨ sel = 2 ∨ sel = 3 := by decide
  rcases hsel sel with rfl | rfl | rfl | rfl
  · exact hexpand _
  · exact hexpand _
  · by_cases h : (colour1 cb).toNat < (colour0 cb).toNat
    · simp [palette, fourMode, Spec.paletteLane, h, hblend, blend_toNat, hexpand]
    · simp [palette, fourMode, Spec.paletteLane, h, hblend, blend_toNat, hexpand]
  · by_cases h : (colour1 cb).toNat < (colour0 cb).toNat
    · simp [palette, fourMode, Spec.paletteLane, h, hblend, blend_toNat, hexpand]
    · simp [palette, fourMode, Spec.paletteLane, h, hblack]

theorem hasColour_palette (v w : Word) (k : Nat) (a : Byte) :
    let c := palette (wordBytes v ++ wordBytes w) (selector (wordBytes v ++ wordBytes w) k)
    Spec.hasColour (rgba c.r c.g c.b a) (v.toNat % 65536) (v.toNat / 65536) (w.toNat / 4 ^ k % 4) := by
  rw [Spec.hasColour, lane_rgba_0, lane_rgba_1, lane_rgba_2, ← colour0_toNat v w, ← colour1_toNat v w,
    ← selector_toNat v w]
  exact ⟨palette_channel_toNat expand565_r_toNat (fun _ _ _ _ _ => rfl) rfl _ _,
    palette_channel_toNat expand565_g_toNat (fun _ _ _ _ _ => rfl) rfl _ _,
    palette_channel_toNat expand565_b_toNat (fun _ _ _ _ _ => rfl) rfl _ _⟩

theorem alphaOf_toNat (a0 a1 : Byte) (code : BitVec 3) :
    (alphaOf a0 a1 code).toNat = Spec.alphaLane a0.toNat a1.toNat code.toNat := by
  have hcode := code.isLt
  unfold alphaOf Spec.alphaLane
  by_cases h0 : code.toNat = 0
  · simp only [h0, if_true]
  by_cases h1 : code.toNat = 1
  · simp only [h1, if_true]
    rfl
  by_cases hmode : a1.toNat < a0.toNat
  · have hw : (8 - code.toNat) + (code.toNat - 1) = 7 := by omega
    simp only [h0, h1, hmode, if_true, if_false, blend_toNat hw, Nat.mul_comm]
  by_cases h6 : code.toNat = 6
  · simp [h6, hmode]
  by_cases h7 : code.toNat = 7
  · simp [h7, hmode]
  have hw : (6 - code.toNat) + (code.toNat - 1) = 5 := by omega
  simp only [h0, h1, hmode, h6, h7, if_false, blend_toNat hw, Nat.mul_comm]

theorem alpha_toNat (v w : Word) (k : Nat) : (alpha (wordBytes v ++ wordBytes w) k).toNat = Spec.alphaFrom v w k := by
  have h0 : (byteAt (wordBytes v ++ wordBytes w) 0).toNat = v.toNat % 256 := by
    rw [byteAt, wordBytes, List.cons_append, List.getD_cons_zero, toNat_byteLane, Spec.lane, Nat.pow_zero, Nat.div_one]
  have h1 : (byteAt (wordBytes v ++ wordBytes w) 1).toNat = v.toNat / 256 % 256 := toNat_byteLane v 1
  rw [alpha, alphaOf_toNat, h0, h1, alphaCode_toNat, Spec.alphaFrom]

/-! ### Texels (41_block_codec R128, R134, R135) -/

theorem texelIndex_div_mod (k : Nat) : texelIndex (k % 4) (k / 4) = k := Nat.div_add_mod k 4

theorem texWords_getElem (f : Nat → Nat → Word) (k : Fin 16) : (texWords f)[k] = f (k.val % 4) (k.val / 4) :=
  Vector.getElem_ofFn k.isLt

theorem hasColour_texelCo (v w : Word) (i j : Nat) :
    Spec.hasColour (texelCo (wordBytes v ++ wordBytes w) i j) (v.toNat % 65536) (v.toNat / 65536)
      (w.toNat / 4 ^ texelIndex i j % 4) :=
  hasColour_palette v w (texelIndex i j) 255

theorem lane_texelCo_3 (cb : List Byte) (i j : Nat) : Spec.lane (texelCo cb i j) 3 = 255 := lane_rgba_3 ..

theorem hasColour_texelRgba (blk : Vector Word 4) (i j : Nat) :
    Spec.hasColour (texelRgba (blockBytes blk) i j) (blk[2].toNat % 65536) (blk[2].toNat / 65536)
      (blk[3].toNat / 4 ^ texelIndex i j % 4) := by
  rw [texelRgba, drop_blockBytes]
  exact hasColour_palette blk[2] blk[3] (texelIndex i j) _

/-- The premise of punch-through on numbers (41_block_codec R135). -/
theorem punchThrough_iff (v w : Word) (k : Nat) :
    fourMode (wordBytes v ++ wordBytes w) = false ∧ selector (wordBytes v ++ wordBytes w) k = 3 ↔
      v.toNat % 65536 ≤ v.toNat / 65536 ∧ w.toNat / 4 ^ k % 4 = 3 := by
  rw [fourMode, decide_eq_false_iff_not, Nat.not_lt, colour0_toNat, colour1_toNat, ← BitVec.toNat_inj, selector_toNat]
  rfl

theorem lane_texelRgba_3 (blk : Vector Word 4) (i j : Nat) :
    Spec.lane (texelRgba (blockBytes blk) i j) 3 =
      if blk[2].toNat % 65536 ≤ blk[2].toNat / 65536 ∧ blk[3].toNat / 4 ^ texelIndex i j % 4 = 3 then 0
      else Spec.alphaFrom blk[0] blk[1] (texelIndex i j) := by
  rw [texelRgba, lane_rgba_3, take_blockBytes, drop_blockBytes, apply_ite BitVec.toNat, alpha_toNat]
  simp only [punchThrough_iff]
  rfl

/-! ### DCOL, DALPHA and DBLK (41_block_codec R138 to R140) -/

/-- Settles O31: TEX[k] is the colour texel of index k. -/
theorem dcolTexels : Obligations.DcolTexels := by
  refine fun s => ⟨_, rfl, fun k => ?_⟩
  have hcolour := hasColour_texelCo s.latch.regs.blk[0] s.latch.regs.blk[1] (k.val % 4) (k.val / 4)
  rw [texelIndex_div_mod] at hcolour
  rw [texWords_getElem, Latch.subBlock, take_blockBytes]
  exact ⟨hcolour, lane_texelCo_3 ..⟩

/-- Settles O32: TEX[k] is the alpha of texel k over black. -/
theorem dalphaTexels : Obligations.DalphaTexels := by
  refine fun s => ⟨_, rfl, fun k => ?_⟩
  rw [texWords_getElem, texelIndex_div_mod, Latch.subBlock, take_blockBytes]
  exact ⟨lane_rgba_0 .., lane_rgba_1 .., lane_rgba_2 .., (lane_rgba_3 ..).trans (alpha_toNat ..)⟩

/-- Settles O33: TEX[k] is the alpha-bearing texel of index k. -/
theorem dblkTexels : Obligations.DblkTexels := by
  refine fun s => ⟨_, rfl, fun k => ?_⟩
  have hcolour := hasColour_texelRgba s.latch.regs.blk (k.val % 4) (k.val / 4)
  have halpha := lane_texelRgba_3 s.latch.regs.blk (k.val % 4) (k.val / 4)
  rw [texelIndex_div_mod] at hcolour halpha
  rw [texWords_getElem]
  exact ⟨hcolour, halpha⟩

/-! ### DTEX and DTEX.CO (41_block_codec R141, 30_encoding R81) -/

theorem column_eq (l : Latch) : l.column = l.regs.arg0.toNat % 4 := by
  rw [Latch.column, BitVec.extractLsb'_toNat, Nat.shiftRight_zero]

theorem row_eq (l : Latch) : l.row = l.regs.arg1.toNat % 4 := by
  rw [Latch.row, BitVec.extractLsb'_toNat, Nat.shiftRight_zero]

/-- The TEX word at index 4*j + i is the texel at column i and row j (41_block_codec R128). -/
theorem texWords_toList_getD (f : Nat → Nat → Word) {i j : Nat} (hi : i < 4) (hj : j < 4) :
    (texWords f).toList.getD (4 * j + i) 0 = f i j := by
  have hk : 4 * j + i < 16 := by omega
  have hmod : (4 * j + i) % 4 = i := by omega
  have hdiv : (4 * j + i) / 4 = j := by omega
  have hget := texWords_getElem f ⟨4 * j + i, hk⟩
  simp only [hmod, hdiv] at hget
  have hlen : 4 * j + i < (texWords f).toList.length := by rwa [Vector.length_toList]
  rw [List.getD_eq_getElem?_getD, List.getElem?_eq_getElem hlen, Option.getD_some, Vector.getElem_toList]
  exact hget

theorem texWords_at_operands (f : Nat → Nat → Word) (l : Latch) :
    (texWords f).toList.getD (4 * (l.regs.arg1.toNat % 4) + l.regs.arg0.toNat % 4) 0 = f l.column l.row := by
  rw [texWords_toList_getD f (Nat.mod_lt _ (by decide)) (Nat.mod_lt _ (by decide)), column_eq, row_eq]

/-- Settles O34: DTEX and DTEX.CO call the texel functions that fill TEX in DBLK and DCOL. -/
theorem dtexIsOneTexel : Obligations.DtexIsOneTexel := by
  refine fun s => ⟨texWords (texelRgba s.latch.block), texWords (texelCo s.latch.subBlock), rfl, ?_, rfl, ?_⟩
  · rw [texWords_at_operands]
    rfl
  · rw [texWords_at_operands]
    rfl

/-! ### Equal endpoints (41_block_codec R143) -/

/-- The mean of a value with itself is the value. -/
theorem paletteLane_self {sel : Nat} (hsel : sel < 4) (c e : Nat) :
    Spec.paletteLane c c sel e e = if sel = 3 then 0 else e := by
  have hmean : (e + e) / 2 = e := by omega
  match sel, hsel with
  | 0, _ => rfl
  | 1, _ => rfl
  | 2, _ => simp [Spec.paletteLane, hmean]
  | 3, _ => simp [Spec.paletteLane]

/-- Settles O35: a texel DCOL writes has its palette colour, and the palette of equal endpoints is the colour and black. -/
theorem equalEndpoints : Obligations.EqualEndpoints := by
  intro s t c hc0 hc1 h k
  obtain ⟨tex, hexec, htexels⟩ := dcolTexels s
  obtain rfl := next_inj (hexec.symm.trans h)
  obtain ⟨⟨hred, hgreen, hblue⟩, halpha⟩ := htexels k
  have hsel : s.latch.regs.blk[1].toNat / 4 ^ k.val % 4 < 4 := Nat.mod_lt _ (by decide)
  rw [hc0, hc1, paletteLane_self hsel] at hred hgreen hblue
  refine ⟨fun hne => ?_, fun heq => BitVec.eq_of_toNat_eq ?_⟩
  · rw [if_neg hne] at hred hgreen hblue
    exact ⟨hred, hgreen, hblue⟩
  · rw [if_pos heq] at hred hgreen hblue
    rw [toNat_eq_lanes, hred, hgreen, hblue, halpha]
    rfl

end Sys2Proof.Machine
end

section
/-! PROOFS. The statements about 42_format_decoder: ISSUP (R150), the checks of a DECODE and the errors they raise (R152 to
R156, R159), the rasters it writes and their order (R157, R160 to R164), and the round trip of a tiled texture (R171). -/

namespace Sys2Proof.Machine

/-! ### The two formats (42_format_decoder R150, R152) -/

theorem ofCode_isSome_iff (c : Word) : (Format.ofCode c).isSome = true ↔ c = 0x1A ∨ c = 0x33 := by
  unfold Format.ofCode
  split
  case isTrue hunc => exact iff_of_true rfl (.inl hunc)
  case isFalse hunc =>
    split
    case isTrue hbc => exact iff_of_true rfl (.inr hbc)
    case isFalse hbc => exact iff_of_false nofun (not_or.2 ⟨hunc, hbc⟩)

theorem ofCode_eq_none {c : Word} (h : ¬ (c = 0x1A ∨ c = 0x33)) : Format.ofCode c = none := by
  rwa [← ofCode_isSome_iff, Option.not_isSome_iff_eq_none] at h

/-- The code of a format, with the source size that format asks for (42_format_decoder R153). -/
theorem exists_format_srcReq {c : Word} {w h req : Nat}
    (hc : (c = 0x1A ∧ req = 4 * w * h) ∨ (c = 0x33 ∧ req = 16 * (w / 4) * (h / 4))) :
    ∃ f, Format.ofCode c = some f ∧ f.srcReq w h = req := by
  obtain ⟨rfl, rfl⟩ | ⟨rfl, rfl⟩ := hc
  · exact ⟨.unc, rfl, rfl⟩
  · exact ⟨.bc, rfl, rfl⟩

/-- Settles O41: ISSUP asks whether the code names a format, all 32 bits compared. -/
theorem issupResult : Obligations.IssupResult := by
  intro s
  have supported : (Format.ofCode s.latch.regs.arg0).isSome = true ↔
      s.latch.regs.arg0.toNat = 0x1A ∨ s.latch.regs.arg0.toNat = 0x33 :=
    (ofCode_isSome_iff _).trans (or_congr BitVec.toNat_inj.symm BitVec.toNat_inj.symm)
  simp only [exec, execIssup, State.finishResult, State.finish, supported]

/-! ### The errors of a DECODE (42_format_decoder R152 to R155, 60_exceptions R194 to R197) -/

theorem toNat_halves (v : BitVec 64) :
    (v.extractLsb' 32 32).toNat * 2 ^ 32 + (v.extractLsb' 0 32).toNat = v.toNat := by
  have hv := v.isLt
  simp only [BitVec.extractLsb'_toNat, Nat.shiftRight_eq_div_pow]
  omega

theorem saturate64_toNat (n : Nat) : (saturate64 n).toNat = min n (2 ^ 64 - 1) :=
  Nat.mod_eq_of_lt (by omega)

/-- A command that ends in error entry with a saturated info leaves its two words in ERRINFO1 and ERRINFO0 (60_exceptions
R194 to R196). -/
theorem reports_saturated {r : Result} {c : ErrCode} {n : Nat} {s : State}
    (h : r = .next (s.raiseError c (saturate64 n))) :
    ∃ i0 i1 : Word, r = .next { s with
        err := true, errCode := c, errInfo0 := i0, errInfo1 := i1, pending := false, done := true } ∧
      i1.toNat * 2 ^ 32 + i0.toNat = min n (2 ^ 64 - 1) :=
  ⟨_, _, h, (toNat_halves _).trans (saturate64_toNat n)⟩

/-- What `raiseIllegal_eq` says of an illegal word, for any error code and any word (60_exceptions R193, R196). -/
theorem raiseError_setWidth (c : ErrCode) (w : Word) (s : State) : s.raiseError c (w.setWidth 64) = { s with
    err := true, errCode := c, errInfo0 := w, errInfo1 := 0, pending := false, done := true } :=
  congrArg (fun t : State => { t with latch := s.latch, errCode := c })
    (raiseIllegal_eq { s with latch := { s.latch with cmd := w } })

theorem exec_decode_unsupportedFormat {s : State} (hf : Format.ofCode s.latch.regs.format = none) :
    exec .decode s = .next (s.raiseError .unsupportedFormat (s.latch.regs.format.setWidth 64)) := by
  simp only [exec, execDecode, hf]

section
variable {f : Format} {s : State} (hf : Format.ofCode s.latch.regs.format = some f)
include hf

theorem exec_decode_bufferTooSmall
    (hsrc : s.latch.regs.srcLen.toNat < f.srcReq s.latch.regs.width.toNat s.latch.regs.height.toNat) :
    exec .decode s = .next
      (s.raiseError .bufferTooSmall (saturate64 (f.srcReq s.latch.regs.width.toNat s.latch.regs.height.toNat))) := by
  simp only [exec, execDecode, hf, if_pos hsrc]

variable (hsrc : f.srcReq s.latch.regs.width.toNat s.latch.regs.height.toNat ≤ s.latch.regs.srcLen.toNat)
include hsrc

theorem exec_decode_dstTooSmall
    (hdst : s.latch.regs.dstLen.toNat < dstReq s.latch.regs.width.toNat s.latch.regs.height.toNat) :
    exec .decode s = .next
      (s.raiseError .dstTooSmall (saturate64 (dstReq s.latch.regs.width.toNat s.latch.regs.height.toNat))) := by
  simp only [exec, execDecode, hf, if_neg (Nat.not_lt.2 hsrc), if_pos hdst]

theorem exec_decode_srcIndexRange {off : Nat}
    (hdst : dstReq s.latch.regs.width.toNat s.latch.regs.height.toNat ≤ s.latch.regs.dstLen.toNat)
    (hrange : f.rangeFailure s.params s.latch.regs.width.toNat s.latch.regs.height.toNat s.latch.regs.srcLen.toNat =
      some off) :
    exec .decode s = .next (s.raiseError .srcIndexRange (saturate64 off)) := by
  simp only [exec, execDecode, hf, if_neg (Nat.not_lt.2 hsrc), if_neg (Nat.not_lt.2 hdst), hrange]

end

/-- Settles O43: the source size is the first check after the format, and its error carries the size. -/
theorem decodeBufferTooSmall : Obligations.DecodeBufferTooSmall := by
  intro s req hc hsrc
  obtain ⟨f, hf, rfl⟩ := exists_format_srcReq hc
  exact reports_saturated (exec_decode_bufferTooSmall hf hsrc)

/-- Settles O44: the destination size is checked after the source size, and its error carries the size. -/
theorem decodeDstTooSmall : Obligations.DecodeDstTooSmall := by
  intro s req hc hsrc hdst
  obtain ⟨f, hf, rfl⟩ := exists_format_srcReq hc
  exact reports_saturated (exec_decode_dstTooSmall hf hsrc hdst)

/-! ### The first destination out of range (42_format_decoder R156, R159, 60_exceptions R197) -/

/-- What a search of a grid in raster order finds: the first point that passes. -/
theorem find?_map_gridPoints {α : Type} {w h x y : Nat} (g : Nat × Nat → α) (q : α → Bool) (hx : x < w) (hy : y < h)
    (hq : q (g (x, y)) = true)
    (hfirst : ∀ x' y', x' < w → y' < h → Spec.before x' y' x y → q (g (x', y')) = false) :
    ((gridPoints w h).map g).find? q = some (g (x, y)) := by
  obtain ⟨rest, hsplit⟩ := gridPoints_split w h x y hx hy
  refine List.find?_eq_some_iff_append.2 ⟨hq, _, rest.map g, by rw [hsplit, List.map_append, List.map_cons], ?_⟩
  intro a ha
  obtain ⟨d, hd, rfl⟩ := List.mem_map.1 ha
  simp only [List.mem_append, List.mem_flatMap, List.mem_map, List.mem_range] at hd
  obtain ⟨y', hy', x', hx', rfl⟩ | ⟨x', hx', rfl⟩ := hd
  · rw [hfirst x' y' hx' (Nat.lt_trans hy' hy) (.inl hy'), Bool.not_false]
  · rw [hfirst x' y (Nat.lt_trans hx' hx) hy (.inr ⟨rfl, hx'⟩), Bool.not_false]

/-- An offset is at most 16 times a 32-bit index, so the error info holds it unsaturated. -/
theorem srcOffset_lt (f : Format) (p : Params) (w : Nat) (d : Nat × Nat) : f.srcOffset p w d < 16 * 2 ^ 32 := by
  cases f
  case unc => exact Nat.mul_lt_mul_of_le_of_lt (by decide : 4 ≤ 16) (BitVec.isLt _) (by decide)
  case bc => exact Nat.mul_lt_mul_of_pos_left (BitVec.isLt _) (by decide)

/-- When both sizes pass, DECODE reports the offset the search of the destinations finds. -/
theorem exec_decode_reports_offset {f : Format} {s : State} {d : Nat × Nat}
    (hf : Format.ofCode s.latch.regs.format = some f)
    (hsrc : f.srcReq s.latch.regs.width.toNat s.latch.regs.height.toNat ≤ s.latch.regs.srcLen.toNat)
    (hdst : dstReq s.latch.regs.width.toNat s.latch.regs.height.toNat ≤ s.latch.regs.dstLen.toNat)
    (hrange : f.rangeFailure s.params s.latch.regs.width.toNat s.latch.regs.height.toNat s.latch.regs.srcLen.toNat =
      some (f.srcOffset s.params s.latch.regs.width.toNat d)) :
    ∃ i0 i1 : Word, exec .decode s = .next { s with
        err := true, errCode := .srcIndexRange, errInfo0 := i0, errInfo1 := i1, pending := false, done := true } ∧
      i1.toNat * 2 ^ 32 + i0.toNat = f.srcOffset s.params s.latch.regs.width.toNat d := by
  have small := srcOffset_lt f s.params s.latch.regs.width.toNat d
  obtain ⟨i0, i1, hexec, hinfo⟩ := reports_saturated (exec_decode_srcIndexRange hf hsrc hdst hrange)
  exact ⟨i0, i1, hexec, hinfo.trans (Nat.min_eq_left (by omega))⟩

/-- Settles O45: the search over the pixels finds (x, y). -/
theorem decodeTexelOutOfRange : Obligations.DecodeTexelOutOfRange := by
  intro s x y hformat hsrc hdst hx hy hout hfirst
  rw [← Nat.mul_assoc] at hsrc hdst
  exact exec_decode_reports_offset (f := .unc) (d := (x, y)) (by rw [hformat]; rfl) hsrc hdst
    (find?_map_gridPoints _ _ hx hy (decide_eq_true hout) fun x' y' hx' hy' hb =>
      decide_eq_false (Nat.not_lt.2 (hfirst x' y' hx' hy' hb)))

/-- Settles O46: the search over the blocks finds (bx, by). -/
theorem decodeBlockOutOfRange : Obligations.DecodeBlockOutOfRange := by
  intro s bx by' hformat hsrc hdst hx hy hout hfirst
  rw [← Nat.mul_assoc] at hsrc hdst
  exact exec_decode_reports_offset (f := .bc) (d := (bx, by')) (by rw [hformat]; rfl) hsrc hdst
    (find?_map_gridPoints _ _ hx hy (decide_eq_true hout) fun x' y' hx' hy' hb =>
      decide_eq_false (Nat.not_lt.2 (hfirst x' y' hx' hy' hb)))

/-! ### The raster of an undisturbed DECODE (42_format_decoder R157, R160, R163) -/

/-- An undisturbed DECODE whose checks pass leaves its cells in DST and the old bytes everywhere else. -/
theorem exec_decode_undisturbed {f : Format} {s : State} (h : ChecksPass f s) (hu : s.undisturbed = true)
    (hwf : s.dst.wf = true) :
    ∃ d : Memory, exec .decode s = .next { s with dst := d, pending := false, done := true } ∧
      (∀ c ∈ s.raster f, d.read c.1 = c.2) ∧ ∀ a, (∀ c ∈ s.raster f, c.1 ≠ a) → d.read a = s.dst.read a := by
  have inside := rasterCells_lt_space f s.params s.src h.dst
  refine ⟨s.dst.writeCells (s.raster f), ?_,
    Memory.read_writeCells_mem _ _ hwf inside (rasterCells_distinct f s.params s.src _ _),
    Memory.read_writeCells_other _ _ hwf inside⟩
  rw [exec_decode_of_checksPass h, writeRaster_undisturbed _ s hu, State.finish]

/-- Settles O47: every byte of a pixel is a cell, and no cell lies past the region. -/
theorem decodeUncompressedRaster : Obligations.DecodeUncompressedRaster := by
  intro s h hu hwf
  obtain ⟨d, hexec, written, outside⟩ := exec_decode_undisturbed (checksPass_unc h) hu hwf
  refine ⟨d, hexec, fun x y k hx hy hk => ?_, fun a ha => ?_⟩
  · exact written _ (mem_rasterCells_unc s.params s.src hx hy hk)
  · exact outside a (rasterCells_ne_past_region .unc s.params s.src ha)

/-- Settles O48: every byte of a texel is a cell, and no cell is a byte of an uncovered pixel or lies past the region. -/
theorem decodeCompressedRaster : Obligations.DecodeCompressedRaster := by
  intro s h hu hwf
  obtain ⟨d, hexec, written, outside⟩ := exec_decode_undisturbed (checksPass_bc h) hu hwf
  refine ⟨d, hexec, fun bx by' i j k hx hy hi hj hk => ?_, fun x y k hx _ hk hout => ?_, fun a ha => ?_⟩
  · rw [written _ (mem_rasterCells_bc s.params s.src hx hy hi hj hk), toNat_byteLane]
  · exact outside _ (rasterCells_bc_ne_uncovered s.params s.src hx hk hout)
  · exact outside a (rasterCells_ne_past_region .bc s.params s.src ha)

/-! ### The order of the writes (42_format_decoder R161) -/

/-- Cells with different addresses give the same memory in any order. -/
theorem Memory.writeCells_perm {m : Memory} {l l' : List Host.Cell} (h : m.wf = true)
    (hl : ∀ c ∈ l, c.1 < byteSpaceBytes) (nd : l.Pairwise (fun c d => c.1 ≠ d.1)) (hp : l'.Perm l) :
    m.writeCells l' = m.writeCells l := by
  have hl' : ∀ c ∈ l', c.1 < byteSpaceBytes := fun c hc => hl c (hp.mem_iff.1 hc)
  have nd' : l'.Pairwise (fun c d => c.1 ≠ d.1) := (hp.pairwise_iff Ne.symm).2 nd
  refine canonicalMemoryIsUnique _ _ (Memory.writeCells_wf l' m h hl') (Memory.writeCells_wf l m h hl) fun k => ?_
  by_cases hk : ∃ c ∈ l, c.1 = k
  · obtain ⟨c, hc, rfl⟩ := hk
    rw [Memory.read_writeCells_mem l' m h hl' nd' c (hp.mem_iff.2 hc), Memory.read_writeCells_mem l m h hl nd c hc]
  · have other : ∀ c ∈ l, c.1 ≠ k := fun c hc e => hk ⟨c, hc, e⟩
    rw [Memory.read_writeCells_other l' m h hl' k fun c hc => other c (hp.mem_iff.1 hc),
      Memory.read_writeCells_other l m h hl k other]

/-- Settles O51: no two cells of a raster name one address. -/
theorem decodeOrderIsUnobservable : Obligations.DecodeOrderIsUnobservable := by
  intro f p src dst w h cells hwf hsize hperm
  rw [← Nat.mul_assoc] at hsize
  exact Memory.writeCells_perm hwf (fun c hc => Nat.lt_trans (rasterCells_lt f p src w h c hc) hsize)
    (rasterCells_distinct f p src w h) hperm

/-! ### Zero width or height (42_format_decoder R164) -/

theorem gridPoints_eq_nil {w h : Nat} (hz : w = 0 ∨ h = 0) : gridPoints w h = [] := by
  refine List.eq_nil_iff_forall_not_mem.2 fun ⟨x, y⟩ hd => ?_
  obtain ⟨hx, hy⟩ := (mem_gridPoints w h x y).1 hd
  omega

theorem grid_eq_nil (f : Format) {w h : Nat} (hz : w = 0 ∨ h = 0) : f.grid w h = [] := by
  cases f
  case unc => exact gridPoints_eq_nil hz
  case bc => exact gridPoints_eq_nil (by omega)

theorem srcReq_eq_zero (f : Format) {w h : Nat} (hz : w = 0 ∨ h = 0) : f.srcReq w h = 0 := by
  obtain rfl | rfl := hz <;> cases f <;> simp [Format.srcReq]

theorem dstReq_eq_zero {w h : Nat} (hz : w = 0 ∨ h = 0) : dstReq w h = 0 := srcReq_eq_zero .unc hz

/-- Settles O50: with no pixel the sizes are 0 and no destination is left to check or to write. -/
theorem decodeZeroSize : Obligations.DecodeZeroSize := by
  intro s hz hu
  refine ⟨fun hs => ?_, fun hn => ?_⟩
  · have hz : s.latch.regs.width.toNat = 0 ∨ s.latch.regs.height.toNat = 0 :=
      hz.imp (congrArg BitVec.toNat) (congrArg BitVec.toNat)
    obtain ⟨f, hf⟩ := Option.isSome_iff_exists.1 ((ofCode_isSome_iff _).2 hs)
    have checks : ChecksPass f s :=
      { format := hf
        src := by rw [srcReq_eq_zero f hz]; exact Nat.zero_le _
        dst := by rw [dstReq_eq_zero hz]; exact Nat.zero_le _
        range := by rw [Format.rangeFailure, grid_eq_nil f hz]; rfl }
    have noCells : s.raster f = [] := by rw [State.raster, Format.rasterCells, grid_eq_nil f hz]; rfl
    rw [exec_decode_of_checksPass checks, writeRaster_undisturbed _ s hu, noCells]
    rfl
  · rw [exec_decode_unsupportedFormat (ofCode_eq_none hn), raiseError_setWidth]

/-! ### The round trip of a tiled texture (42_format_decoder R171) -/

/-- The SRC cells of a texture the host tiles by the map (42_format_decoder R171). -/
def tiledCells (p : Params) (w h : Nat) (pattern : Nat → Nat → Word) : List Host.Cell :=
  (gridPoints w h).flatMap (fun d => pixelCells (Spec.texelOffset p w d.1 d.2) (pattern d.1 d.2))

theorem mem_tiledCells {p : Params} {w h : Nat} {pattern : Nat → Nat → Word} {c : Host.Cell} :
    c ∈ tiledCells p w h pattern ↔ ∃ x y k, x < w ∧ y < h ∧ k < 4 ∧
      c = (Spec.texelOffset p w x y + k, byteLane (pattern x y) k) := by
  simp only [tiledCells, List.mem_flatMap, Prod.exists, mem_gridPoints, mem_pixelCells]
  constructor
  · rintro ⟨x, y, ⟨hx, hy⟩, k, hk, rfl⟩
    exact ⟨x, y, k, hx, hy, hk, rfl⟩
  · rintro ⟨x, y, k, hx, hy, hk, rfl⟩
    exact ⟨x, y, ⟨hx, hy⟩, k, hk, rfl⟩

/-- Where the map is injective, the bytes of different texels lie apart. -/
theorem texelOffset_inj {p : Params} {w h x y k x' y' k' : Nat} (hi : UncInjective p w h) (hx : x < w) (hy : y < h)
    (hx' : x' < w) (hy' : y' < h) (hk : k < 4) (hk' : k' < 4)
    (he : Spec.texelOffset p w x y + k = Spec.texelOffset p w x' y' + k') : x = x' ∧ y = y' := by
  refine hi x y x' y' hx hy hx' hy' (BitVec.eq_of_toNat_eq ?_)
  unfold Spec.texelOffset at he
  omega

theorem tiledCells_distinct {p : Params} {w h : Nat} (pattern : Nat → Nat → Word) (hi : UncInjective p w h) :
    (tiledCells p w h pattern).Pairwise (fun c d => c.1 ≠ d.1) := by
  refine List.pairwise_flatMap.2 ⟨fun d _ => pixelCells_distinct _ _, ?_⟩
  refine List.Pairwise.imp_of_mem ?_ (gridPoints_nodup w h)
  rintro ⟨x, y⟩ ⟨x', y'⟩ hd hd' hne c hc c' hc' he
  obtain ⟨hx, hy⟩ := (mem_gridPoints w h x y).1 hd
  obtain ⟨hx', hy'⟩ := (mem_gridPoints w h x' y').1 hd'
  obtain ⟨k, hk, rfl⟩ := (mem_pixelCells _ _ c).1 hc
  obtain ⟨k', hk', rfl⟩ := (mem_pixelCells _ _ c').1 hc'
  obtain ⟨rfl, rfl⟩ := texelOffset_inj hi hx hy hx' hy' hk hk' he
  exact hne rfl

/-- Settles O49: the tiled cells lie apart, so each texel still holds its pixel when DECODE reads it. -/
theorem decodeInvertsTheTiling : Obligations.DecodeInvertsTheTiling := by
  intro s m pattern hobl hsize h hu hdst hm hsrc
  obtain ⟨d, hexec, pixels, -⟩ := decodeUncompressedRaster s h hu hdst
  refine ⟨_, hexec, rfl, fun x y k hx hy hk => ?_⟩
  have inside : ∀ c ∈ tiledCells s.params s.latch.regs.width.toNat s.latch.regs.height.toNat pattern,
      c.1 < byteSpaceBytes := by
    intro c hc
    obtain ⟨x, y, k, hx, hy, hk, rfl⟩ := mem_tiledCells.1 hc
    have hrange := h.range x y hx hy
    exact Nat.lt_trans (by omega) s.latch.regs.srcLen.isLt
  have texel := Memory.read_writeCells_mem _ m hm inside (tiledCells_distinct pattern (hobl.injective _ hsize)) _
    (mem_tiledCells.2 ⟨x, y, Spec.permAt s.params.packPerm k, hx, hy, permAt_lt _ _, rfl⟩)
  rw [tiledCells, ← hsrc] at texel
  rw [pixels x y k hx hy hk, texel, toNat_byteLane]

end Sys2Proof.Machine
end

section
/-! PROOFS. The statements about 43_pixel_utilities: PACK_fn as a permutation of byte lanes (R180), and the commands PACK,
BSWAP32, BSWAP16 and NOP (R181 to R184). -/

namespace Sys2Proof.Machine

/-! ### Words by their byte lanes (00_scope R11) -/

theorem eq_of_lane_eq {v w : Word} (h : ∀ k < 4, Spec.lane v k = Spec.lane w k) : v = w := by
  apply BitVec.eq_of_toNat_eq
  rw [toNat_eq_lanes v, toNat_eq_lanes w, h 0 (by decide), h 1 (by decide), h 2 (by decide), h 3 (by decide)]

theorem toNat_wordOfBytes (a b c d : Byte) :
    (wordOfBytes a b c d).toNat = a.toNat + 256 * b.toNat + 65536 * c.toNat + 16777216 * d.toNat := by
  rw [toNat_eq_lanes]
  simp only [← toNat_byteLane, byteLane_wordOfBytes_0, byteLane_wordOfBytes_1, byteLane_wordOfBytes_2,
    byteLane_wordOfBytes_3]

/-! ### The channel packer (43_pixel_utilities R180) -/

theorem lane_packFn (p : PackPerm) (w : Word) {k : Nat} (hk : k < 4) :
    Spec.lane (packFn p w) k = Spec.lane w (Spec.permAt p k) := by
  rw [← toNat_byteLane, byteLane_packFn p w hk, toNat_byteLane]

/-- The output lane in which source lane j lands. -/
def slotOf (p : PackPerm) (j : Fin 4) : Fin 4 :=
  if p.p0 = j then 0 else if p.p1 = j then 1 else if p.p2 = j then 2 else 3

/-- The permutation that sends each lane back. -/
def inversePerm (p : PackPerm) : PackPerm := ⟨slotOf p 0, slotOf p 1, slotOf p 2, slotOf p 3⟩

theorem permAt_inversePerm (p : PackPerm) : ∀ j : Fin 4, Spec.permAt (inversePerm p) j = slotOf p j
  | 0 | 1 | 2 | 3 => rfl

theorem packPerm_wf_iff {p : PackPerm} : p.wf = true ↔
    ((((p.p0 ≠ p.p1 ∧ p.p0 ≠ p.p2) ∧ p.p0 ≠ p.p3) ∧ p.p1 ≠ p.p2) ∧ p.p1 ≠ p.p3) ∧ p.p2 ≠ p.p3 := by
  simp only [PackPerm.wf, Bool.and_eq_true, bne_iff_ne]

/-- Four different lanes are all the lanes: the one that is none of the first three is the last. -/
theorem permAt_slotOf {p : PackPerm} (h : p.wf = true) (j : Fin 4) : Spec.permAt p (slotOf p j) = j := by
  rw [packPerm_wf_iff] at h
  unfold slotOf
  split
  case isTrue h0 => exact congrArg Fin.val h0
  case isFalse h0 =>
    split
    case isTrue h1 => exact congrArg Fin.val h1
    case isFalse h1 =>
      split
      case isTrue h2 => exact congrArg Fin.val h2
      case isFalse h2 =>
        have last : p.p3 = j := by omega
        exact congrArg Fin.val last

theorem permAt_inversePerm_right {p : PackPerm} (h : p.wf = true) {k : Nat} (hk : k < 4) :
    Spec.permAt p (Spec.permAt (inversePerm p) k) = k := by
  rw [permAt_inversePerm p ⟨k, hk⟩]
  exact permAt_slotOf h ⟨k, hk⟩

theorem permAt_inversePerm_left {p : PackPerm} (h : p.wf = true) {k : Nat} (hk : k < 4) :
    Spec.permAt (inversePerm p) (Spec.permAt p k) = k := by
  obtain ⟨⟨⟨⟨⟨h01, h02⟩, h03⟩, h12⟩, h13⟩, h23⟩ := packPerm_wf_iff.1 h
  match k, hk with
  | 0, _ => exact (permAt_inversePerm p p.p0).trans (by rw [slotOf, if_pos rfl]; rfl)
  | 1, _ => exact (permAt_inversePerm p p.p1).trans (by rw [slotOf, if_neg h01, if_pos rfl]; rfl)
  | 2, _ => exact (permAt_inversePerm p p.p2).trans (by rw [slotOf, if_neg h02, if_neg h12, if_pos rfl]; rfl)
  | 3, _ => exact (permAt_inversePerm p p.p3).trans (by rw [slotOf, if_neg h03, if_neg h13, if_neg h23]; rfl)

/-- Packing by q and then by p gives the word back when q undoes p on every lane. -/
theorem packFn_packFn {p q : PackPerm} (h : ∀ k < 4, Spec.permAt q (Spec.permAt p k) = k) (w : Word) :
    packFn p (packFn q w) = w := by
  refine eq_of_lane_eq fun k hk => ?_
  rw [lane_packFn p _ hk, lane_packFn q w (permAt_lt p k), h k hk]

theorem packFn_inversePerm_right {p : PackPerm} (h : p.wf = true) (w : Word) : packFn p (packFn (inversePerm p) w) = w :=
  packFn_packFn (fun _ hk => permAt_inversePerm_left h hk) w

theorem packFn_inversePerm_left {p : PackPerm} (h : p.wf = true) (w : Word) : packFn (inversePerm p) (packFn p w) = w :=
  packFn_packFn (fun _ hk => permAt_inversePerm_right h hk) w

theorem packFn_injective {p : PackPerm} (h : p.wf = true) {a b : Word} (hab : packFn p a = packFn p b) : a = b := by
  rw [← packFn_inversePerm_left h a, hab, packFn_inversePerm_left h b]

/-- Settles O38: a well-formed permutation has an inverse, and packing by it undoes the packer on either side. -/
theorem packFnIsABijection : Obligations.PackFnIsABijection :=
  ⟨fun p w _ hk => lane_packFn p w hk,
    fun p h => ⟨fun _ _ e => packFn_injective h e, fun b => ⟨packFn (inversePerm p) b, packFn_inversePerm_right h b⟩⟩,
    packFn_packFn (by decide)⟩

/-! ### PACK, BSWAP32 and BSWAP16 (43_pixel_utilities R181 to R183) -/

/-- Settles O37: RESULT is PACK_fn of L.ARG0. -/
theorem packResult : Obligations.PackResult := fun _ => ⟨_, rfl, fun _ hk => lane_packFn _ _ hk⟩

/-- The lanes in reverse: BSWAP32 is the channel packer of this permutation (43_pixel_utilities R182). -/
def reversePerm : PackPerm := ⟨3, 2, 1, 0⟩

theorem permAt_reversePerm : ∀ k < 4, Spec.permAt reversePerm k = 3 - k := by decide

theorem exec_bswap32 (s : State) : exec .bswap32 s = .next (s.finishResult (packFn reversePerm s.latch.regs.arg0)) := rfl

/-- Settles O39: BSWAP32 packs by the reversed lanes, a permutation that is its own inverse. -/
theorem bswap32Result : Obligations.Bswap32Result := by
  refine fun s => ⟨packFn reversePerm s.latch.regs.arg0, exec_bswap32 s, fun k hk => ?_, fun s' hs' => ?_⟩
  · rw [lane_packFn _ _ hk, permAt_reversePerm k hk]
  · rw [exec_bswap32, hs', packFn_packFn (by decide)]
    rfl

theorem half_toNat (l : Latch) : l.half.toNat = l.regs.arg0.toNat % 65536 := by
  rw [Latch.half, BitVec.extractLsb'_toNat, Nat.shiftRight_zero]

/-- Settles O40: lane 0 of RESULT is byte 1 of the half, lane 1 its byte 0, and the two high lanes are 0. -/
theorem bswap16Result : Obligations.Bswap16Result := by
  refine fun s => ⟨_, rfl, ?_⟩
  have zero : (0 : Byte).toNat = 0 := rfl
  rw [toNat_wordOfBytes, zero, toNat_byteLane, toNat_byteLane, Spec.lane, Spec.lane,
    BitVec.toNat_setWidth_of_le (by decide), half_toNat]
  omega

/-! ### NOP (43_pixel_utilities R184) -/

/-- Settles O36: the issue has cleared the report, and NOP adds DONE to it. -/
theorem nopClearsTheReport : Obligations.NopClearsTheReport := by
  refine fun s => ⟨rfl, fun w n => ⟨_, rfl, ?_, busRead_offset .errInfo0 _, busRead_offset .errInfo1 _, rfl, rfl, rfl, rfl,
    rfl⟩⟩
  exact (busRead_status _).trans (BitVec.eq_of_toNat_eq (statusWord_toNat _))

end Sys2Proof.Machine
end

section
/-! PROOFS. The statements about 60_exceptions: the precision of errors (R199), the commands that raise none (R201), and the
error of a DECODE whose format is not one of the two (R193). -/

namespace Sys2Proof.Machine

/-! ### Error reports (60_exceptions R190, R196) -/

/-- What error entry writes: ERR, ERRCODE and the two words of ERRINFO (60_exceptions R196). -/
def State.errorReport (s : State) : Bool × ErrCode × Word × Word := (s.err, s.errCode, s.errInfo0, s.errInfo1)

theorem writeRaster_errorReport (cells : List Host.Cell) (s : State) :
    (s.writeRaster cells).errorReport = s.errorReport := by
  obtain ⟨d, n, e⟩ := writeRaster_frame cells s
  rw [e]
  rfl

/-- A command keeps the report as it was, or is a DECODE that does nothing but error entry. -/
theorem exec_errorReport {i : Instr} {s t : State} (h : exec i s = .next t) :
    t.errorReport = s.errorReport ∨ (i = .decode ∧ ∃ c n, t = s.raiseError c n) := by
  obtain ⟨-, v, rfl⟩ | ⟨-, v, rfl⟩ | ⟨-, rfl⟩ | ⟨hi, hd⟩ := exec_cases i s t h
  · exact .inl rfl
  · exact .inl rfl
  · exact .inl rfl
  · obtain ⟨c, n, -, e⟩ | ⟨f, -, rfl⟩ := execDecode_ends hd
    · exact .inr ⟨hi, c, n, e⟩
    · exact .inl (writeRaster_errorReport _ s)

/-- A perform step that sets ERR is error entry, of an illegal word or of a DECODE. -/
theorem perform_raises {s t : State} (hs : s.err = false) (h : perform s = .next t) (ht : t.err = true) :
    ∃ c n, t = s.raiseError c n := by
  cases hd : Sys2Proof.decode s.latch.cmd with
  | instr i =>
    rw [perform_instr hd] at h
    obtain hkept | ⟨-, hraised⟩ := exec_errorReport h
    · have herr : t.err = s.err := congrArg Prod.fst hkept
      rw [herr, hs] at ht
      cases ht
    · exact hraised
  | illegal e =>
    rw [perform_illegal hd] at h
    exact ⟨_, _, (next_inj h).symm⟩

/-- Settles O10: a step that sets ERR is error entry, and error entry writes no result. -/
theorem errorsWriteNoResult : Obligations.ErrorsWriteNoResult := by
  intro s t hu hs h ht
  rw [step_unit hu] at h
  obtain ⟨c, n, rfl⟩ := perform_raises hs h ht
  exact ⟨rfl, rfl, rfl⟩

/-- Settles O11: only a DECODE touches the report. -/
theorem onlyDecodeRaisesAfterDecoding : Obligations.OnlyDecodeRaisesAfterDecoding := by
  intro i s hi hs
  obtain ⟨t, ht⟩ := exec_next i s
  obtain hkept | ⟨hdecode, -⟩ := exec_errorReport ht
  · simp only [State.errorReport, Prod.mk.injEq] at hkept
    obtain ⟨herr, hcode, hinfo0, hinfo1⟩ := hkept
    exact ⟨t, ht, herr.trans hs, hcode, hinfo0, hinfo1⟩
  · exact absurd hdecode hi

/-- Settles O42: the format is the first check, and its error carries the code. -/
theorem decodeUnsupportedFormat : Obligations.DecodeUnsupportedFormat := by
  intro s hunc hbc
  rw [exec_decode_unsupportedFormat (ofCode_eq_none (not_or.2 ⟨hunc, hbc⟩)), raiseError_setWidth]

end Sys2Proof.Machine
end

section
/-! PROOFS. The statements about 70_reset_and_hazards: a host that keeps the duties of R232 never stops the machine and never
disturbs a DECODE (R228, 20_memory R68), and the host writes R232 forbids are refused by name under the
host rule of State.reset, and no others (20_memory R67, R68). -/

namespace Sys2Proof.Machine

/-! ### The windows and the marks of a pending DECODE (20_memory R67, R68) -/

theorem inSrcWindow_iff (s : State) (a : Nat) : s.inSrcWindow a = true ↔
    s.pending = true ∧ s.latch.cmd = 0x0000000C ∧ a < s.latch.regs.srcLen.toNat := by
  rw [State.inSrcWindow, Bool.and_eq_true, decodePending_iff, decide_eq_true_iff, and_assoc]

theorem inDstWindow_iff (s : State) (a : Nat) : s.inDstWindow a = true ↔
    s.pending = true ∧ s.latch.cmd = 0x0000000C ∧ a < 4 * (s.latch.regs.width.toNat * s.latch.regs.height.toNat) := by
  rw [State.inDstWindow, Bool.and_eq_true, decodePending_iff, decide_eq_true_iff, and_assoc, Latch.regionBytes]

/-- What records that the host disturbed the pending DECODE (log entry 6). -/
def State.marks (s : State) : Bool × List Nat := (s.srcDisturbed, s.dstDisturbed)

theorem undisturbed_of_marks_eq {s t : State} (e : t.marks = s.marks) (hs : s.undisturbed = true) :
    t.undisturbed = true := by
  obtain ⟨hsrc, hdst⟩ := Prod.mk.inj e
  rw [State.undisturbed, hsrc, hdst]
  exact hs

/-! ### The unit's turn keeps the marks -/

theorem execDecode_keeps_marks {s t : State} (h : execDecode s = .next t) : t.marks = s.marks := by
  obtain ⟨c, n, -, rfl⟩ | ⟨f, -, rfl⟩ := execDecode_ends h
  · rfl
  · obtain ⟨d, n, e⟩ := writeRaster_frame (f.rasterCells s.params s.src _ _) s
    rw [e]
    rfl

theorem exec_keeps_marks {i : Instr} {s t : State} (h : exec i s = .next t) : t.marks = s.marks := by
  obtain ⟨-, v, rfl⟩ | ⟨-, v, rfl⟩ | ⟨-, rfl⟩ | ⟨-, hd⟩ := exec_cases i s t h
  · rfl
  · rfl
  · rfl
  · exact execDecode_keeps_marks hd

theorem perform_keeps_marks {s t : State} (h : perform s = .next t) : t.marks = s.marks := by
  cases hd : Sys2Proof.decode s.latch.cmd with
  | instr i => exact exec_keeps_marks ((perform_instr hd).symm.trans h)
  | illegal e => exact next_inj ((perform_illegal hd).symm.trans h) ▸ rfl

/-! ### The host's turn (70_reset R232) -/

/-- The table of R232 looks at the pending command only, not at the host's own side of the state. -/
theorem HostOp.dutiful_host (op : HostOp) (s : State) (p : List HostOp) (n : Nat) :
    op.dutiful { s with script := p, delay := n } = op.dutiful s := rfl

theorem inSrcWindow_of_dutiful {a : Nat} {v : Byte} {s : State} (h : HostOp.dutiful (.srcWrite a v) s = true) :
    s.inSrcWindow a = false :=
  (Bool.not_eq_true' _).mp (Bool.and_eq_true_iff.1 h).2

theorem inDstWindow_of_dutiful {a : Nat} {v : Byte} {s : State} (h : HostOp.dutiful (.dstWrite a v) s = true) :
    s.inDstWindow a = false :=
  (Bool.not_eq_true' _).mp (Bool.and_eq_true_iff.1 h).2

/-- What R232 allows the machine takes, whatever the host rule. -/
theorem HostOp.admitted_of_dutiful {op : HostOp} {s : State} (h : op.dutiful s = true) : op.admitted s = true := by
  refine Bool.and_eq_true_iff.2 ⟨(Bool.and_eq_true_iff.1 h).1, ?_⟩
  cases op with
  | srcWrite a v => simp [inSrcWindow_of_dutiful h]
  | dstWrite a v => simp [inDstWindow_of_dutiful h]
  | _ => rfl

theorem busWrite_undisturbed {s : State} (hs : s.undisturbed = true) (off : Nat) (v : Word) :
    (s.busWrite off v).undisturbed = true := by
  obtain e | ⟨-, e⟩ | ⟨g, e⟩ := busWrite_cases off v s <;> rw [e]
  · exact hs
  · rfl
  · exact hs

theorem hostSrcWrite_marks_outside_window {s : State} {a : Nat} (h : s.inSrcWindow a = false) (v : Byte) :
    (s.hostSrcWrite a v).marks = s.marks := by
  rw [State.marks, State.hostSrcWrite_srcDisturbed, h, Bool.or_false]
  rfl

theorem hostDstRead_marks (a : Nat) (s : State) : (s.hostDstRead a).marks = s.marks := by
  unfold State.hostDstRead
  split <;> rfl

/-- A dutiful operation writes in no window, so it marks nothing; an issue and a reset clear the marks. -/
theorem hostStep_undisturbed {op : HostOp} {s t : State} (hs : s.undisturbed = true) (hd : op.dutiful s = true)
    (h : hostStep op s = .next t) : t.undisturbed = true := by
  obtain ⟨off, v, -, -, -, rfl⟩ | ⟨off, -, -, -, rfl⟩ | ⟨-, rfl⟩ | ⟨a, v, rfl, -, -, rfl⟩ | ⟨a, -, -, rfl⟩ |
    ⟨a, v, rfl, -, -, rfl⟩ | ⟨-, rfl⟩ := hostStep_cases op s t h
  · exact busWrite_undisturbed hs off v
  · exact hs
  · split <;> exact hs
  · exact undisturbed_of_marks_eq (hostSrcWrite_marks_outside_window (inSrcWindow_of_dutiful hd) v) hs
  · exact undisturbed_of_marks_eq (hostDstRead_marks a s) hs
  · exact hostDstWrite_outside_window (inDstWindow_of_dutiful hd) v ▸ hs
  · rfl

/-- With nothing left to do the host's turn leaves the state (log entry 13). -/
theorem step_host_done {s : State} (hu : s.unitTurn = false) (hs : s.script = []) : step s = .next s := by
  rw [step, if_neg (Bool.eq_false_iff.1 hu), hostTurn, hs]

/-- Settles O58: the unit's turn always goes on and keeps the marks; a dutiful operation is admitted and makes none. -/
theorem dutifulHostNeverDisturbs : Obligations.DutifulHostNeverDisturbs := by
  intro s hs hd
  cases hu : s.unitTurn with
  | true =>
    obtain ⟨t, ht, -⟩ := perform_completes s
    exact ⟨t, (step_unit hu).trans ht, undisturbed_of_marks_eq (perform_keeps_marks ht) hs⟩
  | false =>
    rw [State.dutifulTurn, hu, Bool.false_or] at hd
    cases hscript : s.script with
    | nil => exact ⟨s, step_host_done hu hscript, hs⟩
    | cons op rest =>
      rw [hscript] at hd
      let s' : State := { s with script := rest, delay := s.delay - 1 }
      have hd' : op.dutiful s' = true := (op.dutiful_host s _ _).trans hd
      obtain ⟨t, ht⟩ := hostStep_of_admitted (HostOp.admitted_of_dutiful hd')
      exact ⟨t, (step_host s op rest hu hscript).trans ht, hostStep_undisturbed (s := s') hs hd' ht⟩

/-! ### The writes R232 forbids (20_memory R67, R68; log entry 6) -/

theorem admitWrite_refused {s : State} {forbidden : Bool} (hf : forbidden = true) (hr : s.hostRule = .refuse)
    (why : Refusal) (k : State) : s.admitWrite forbidden why k = .refused why := if_pos ⟨hf, hr⟩

theorem hostStep_srcWrite_refused {s : State} {a : Nat} (ha : a < byteSpaceBytes) (hr : s.hostRule = .refuse)
    (h : s.inSrcWindow a = true) (v : Byte) : hostStep (.srcWrite a v) s = .refused .srcWriteInWindow :=
  (if_pos ha).trans (admitWrite_refused h hr _ _)

theorem hostStep_dstWrite_refused {s : State} {a : Nat} (ha : a < byteSpaceBytes) (hr : s.hostRule = .refuse)
    (h : s.inDstWindow a = true) (v : Byte) : hostStep (.dstWrite a v) s = .refused .dstWriteInWindow :=
  (if_pos ha).trans (admitWrite_refused h hr _ _)

/-- Settles O59: under `refuse` a write in a window is refused, under `anyValue` an SRC write there marks the DECODE; a
write outside the windows is admitted and marks nothing. -/
theorem forbiddenHostWrites : Obligations.ForbiddenHostWrites := by
  intro s a v rest hu ha
  let s' : State := { s with script := rest, delay := s.delay - 1 }
  have srcWindow := inSrcWindow_iff s' a
  have dstWindow := inDstWindow_iff s' a
  refine ⟨fun hs => ?_, fun hs => ?_, rfl⟩ <;> rw [step_host s _ rest hu hs]
  · refine ⟨fun ⟨hr, hw⟩ => hostStep_srcWrite_refused (s := s') ha hr (srcWindow.2 hw) v,
      fun ⟨hr, hw⟩ => ?_, fun hw => ?_⟩
    · refine ⟨_, hostStep_srcWrite (s := s') ha (.inl hr) v, ?_⟩
      rw [State.hostSrcWrite_srcDisturbed, srcWindow.2 hw, Bool.or_true]
    · have outside : s'.inSrcWindow a = false := Bool.eq_false_iff.2 (mt srcWindow.1 hw)
      exact ⟨_, hostStep_srcWrite ha (.inr outside) v,
        congrArg Prod.fst (hostSrcWrite_marks_outside_window outside v)⟩
  · refine ⟨fun ⟨hr, hw⟩ => hostStep_dstWrite_refused (s := s') ha hr (dstWindow.2 hw) v, fun hw => ?_⟩
    have outside : s'.inDstWindow a = false := Bool.eq_false_iff.2 (mt dstWindow.1 hw)
    exact ⟨_, hostStep_dstWrite_outside_window ha outside v, rfl⟩

end Sys2Proof.Machine
end
